-- ==== Sys2Proof/Word.lean ====
section
/-! DEFINITION. The byte and the 16-bit word of the part, and the plainest arithmetic its rules use:
counts that stop at 65535, clamps, and rounding to nearest with halves away from zero. -/

namespace Sys2Proof

/-- A byte, as every layout of chapter 13 counts it. -/
abbrev Byte := BitVec 8

/-- A 16-bit word: a table word, a view word, a tag, a check value. -/
abbrev Word := BitVec 16

/-- A count that rises by 1 and stops at 65535 (Introduction, 5: Counters). -/
def satSucc (n : Nat) : Nat := if n < 65535 then n + 1 else 65535

/-- A count that rises by 1 and stops at `top`. -/
def capSucc (top n : Nat) : Nat := if n < top then n + 1 else top

/-- A whole number held between `lo` and `hi`. -/
def clampInt (lo hi x : Int) : Int := max lo (min hi x)

/-- `num / den` rounded to the nearest whole number, halves away from zero. -/
def roundAway (num : Int) (den : Nat) : Int :=
  if num < 0 then -(((2 * num.natAbs + den) / (2 * den) : Nat) : Int)
  else (((2 * num.natAbs + den) / (2 * den) : Nat) : Int)

/-- Bits `hi` down to `lo` of a word, as a number. -/
def bitsOf (w : Word) (hi lo : Nat) : Nat := w.toNat / 2 ^ lo % 2 ^ (hi + 1 - lo)

/-- Bit `k` of a word. -/
def bitOf (w : Word) (k : Nat) : Bool := w.getLsbD k

/-- A value used as 1 where 0 is stored (R163). -/
def atLeastOne (n : Nat) : Nat := if n = 0 then 1 else n

/-- The number of a condition: 1 when it holds. -/
def bit01 (b : Bool) : Nat := if b then 1 else 0

/-- `f n`, with `n` brought to a numeral before `f` sees it; it equals `f n` (`forceNat_eq`). -/
def forceNat {α : Type} (n : Nat) (f : Nat → α) : α :=
  match n with
  | 0 => f 0
  | k + 1 => f (k + 1)

/-- Entry `i` of a vector changed by `f`. -/
def vmod {α : Type} {n : Nat} (v : Vector α n) (i : Fin n) (f : α → α) : Vector α n :=
  v.set i (f v[i])

/-- Byte `i` of a fixed block of bytes; 0 past its end. -/
def byteAt {n : Nat} (v : Vector Byte n) (i : Nat) : Byte := v[i]?.getD 0

/-- A fixed block of bytes with byte `i` replaced. -/
def putByte {n : Nat} (v : Vector Byte n) (i : Nat) (b : Byte) : Vector Byte n :=
  v.setIfInBounds i b

/-- The 16-bit field whose first, most significant byte stands at `i` (chapter 13). -/
def wordAt {n : Nat} (v : Vector Byte n) (i : Nat) : Word := byteAt v i ++ byteAt v (i + 1)

/-- The upper byte of a word, sent first. -/
def upper (w : Word) : Byte := w.extractLsb' 8 8

/-- The lower byte of a word. -/
def lower (w : Word) : Byte := w.extractLsb' 0 8

/-- A fixed block of bytes with the 16-bit field at `i` replaced, most significant byte first. -/
def putWord {n : Nat} (v : Vector Byte n) (i : Nat) (w : Word) : Vector Byte n :=
  putByte (putByte v i (upper w)) (i + 1) (lower w)

/-- A byte from a number. -/
def byte (n : Nat) : Byte := BitVec.ofNat 8 n

/-- A word from a number. -/
def word (n : Nat) : Word := BitVec.ofNat 16 n

end Sys2Proof
end

