-- ==== Sys2Proof/Config.lean ====
section
/-! DEFINITION. The counts that the part fixes: they stand in no table and no command changes them. -/

namespace Sys2Proof.Config

/-- Bit times in one frame time: 92 bytes (Introduction 4.1). The unit of an input's frame timing. -/
def frameBits : Nat := 736
/-- Bit times in half a frame time: the least that a node frame time lasts (R130). -/
def halfFrame : Nat := 368
/-- Miss count at which an input goes DOWN (R135). -/
def lossFrames : Nat := 8
/-- Idle and active runs that move the service input (R138). -/
def followFrames : Nat := 16
/-- Claim holdoff loaded at a claim timeout (R69). -/
def claimHoldoff : Nat := 16
/-- Frames in a row that make a PLI ready (R149). -/
def readyFrames : Nat := 16
/-- Frames of a highway restart that carry the restart mark (R146). -/
def restartFrames : Nat := 8
/-- Frames of a highway restart after the mark whose uplink is not taken (R146). -/
def settlingFrames : Nat := 32
/-- Access timer of a sent PLI access (R153). -/
def accessFrames : Nat := 64
/-- Capacity of the closing list (R44). -/
def closingCapacity : Nat := 8
/-- Boundaries a polarity change freezes a port (R8). -/
def reversalBoundaries : Nat := 4
/-- Polarity count at which WIRING-REVERSED changes (R12). -/
def polarityBoundaries : Nat := 25
/-- Boundaries in RESULT-WAIT after which a test is aborted (R20). -/
def resultBoundaries : Nat := 2
/-- Uplink samples in one gain control block (R113). -/
def blockSamples : Nat := 64
/-- Missing downlink samples after which the caller hears silence (R116). -/
def missingFrames : Nat := 16
/-- Failed bursts that end a decoding (R33). -/
def burstLimit : Nat := 3
/-- The filtered current's and a measurement's limit, in dmA (R1). -/
def currentLimit : Int := 999

end Sys2Proof.Config
end

