-- ==== Sys2Proof/Syntax.lean ====
section
/-! DEFINITION. The commands of the concentrator: one constructor for each row of
spec/opcode_table.json, with the row's operands. -/

namespace Sys2Proof

/-- A port of the node, 0 to 31. -/
abbrev PortNo := Fin 32
/-- A trunk channel, 0 to 19. -/
abbrev ChanNo := Fin 20
/-- A PLI position on the post highway, 0 to 7. -/
abbrev PliNo := Fin 8
/-- An identity decoder, 0 to 3. -/
abbrev DecNo := Fin 4
/-- The 92 bytes of a ring frame (13.1). -/
abbrev Frame := Vector Byte 92
/-- The 12 bytes of a signalling cell (13.3). -/
abbrev CellBytes := Vector Byte 12
/-- The 32 bytes of a management message (13.4). -/
abbrev Message := Vector Byte 32
/-- The 16 bytes of one PLI's uplink slot (13.5). -/
abbrev PliSlot := Vector Byte 16

/-- The two ring inputs (Introduction 3.2). -/
inductive RingInput where
  | pin
  | sin
  deriving DecidableEq, Repr

/-- What the line of an input brought from the end of the input's last frame time, or from the mark to which its frame
timing moved, to the end of this one, where it was not dark (R120): a run of bytes whose first stands `shift` bit times
after the point at which the input expects its frame mark. -/
structure Arrival where
  shift : Nat
  bytes : List Byte
  deriving DecidableEq, Repr

/-- The arguments of a management request: bytes 3 to 31 of its message (13.4). `flags` is byte 4
(target, PLI write, force, clear, active bank), `unit` is byte 5 (count, port or PLI position) and
`first` is bytes 6 and 7 (first index, index or PLI index). -/
structure Request where
  tag   : Byte
  flags : Byte
  unit  : Byte
  first : Word
  data  : Vector Byte 24
  deriving DecidableEq, Repr

/-- The type and key of a report list entry (R86). A CLOSE entry's key is its closing entry, named by
the number the closing entry was formed with. -/
inductive EntryKey where
  | call (p : PortNo)
  | fault (p : PortNo)
  | close (entry : Nat)
  | node
  deriving DecidableEq, Repr

/-- The commands, one per row of spec/opcode_table.json and in its order. -/
inductive Instr where
  | powerOn (straps : BitVec 6)
  | nodeFrameTime
  | inputFrameTime (i : RingInput) (arrival : Option Arrival)
  | ack (kind port ref echo : Byte)
  | answer (ref : Byte)
  | hold (ref : Byte)
  | resume (ref : Byte)
  | clear (ref : Byte)
  | recall (port channel : Byte)
  | cancel (port : Byte)
  | inputDown (i : RingInput)
  | inputUp (i : RingInput)
  | followActive
  | switchoverHoldEnd
  | superframeBoundary
  | settle (p : PortNo)
  | reversalEnd (p : PortNo)
  | wiringReversedToggle (p : PortNo)
  | uplinkFrame (slots : Vector PliSlot 8)
  | pliReady (i : PliNo)
  | pliLossTimeout (i : PliNo)
  | accessReply
  | accessSent
  | accessTimeout
  | agcBlock (c : ChanNo)
  | missingCountFull (c : ChanNo)
  | claimTimeout (c : ChanNo)
  | releaseTimeout (c : ChanNo)
  | assignmentExpiry (c : ChanNo)
  | withdrawal
  | ageing (p : PortNo)
  | parkTimeout (p : PortNo)
  | decoderWaitExpiry (p : PortNo)
  | identityWindowExpiry (d : DecNo)
  | testPoint
  | testDischargeEnd
  | testChargeEnd
  | testResultTimeout
  | cadencePhaseEnd (p : PortNo)
  | reportSend
  | confirmTimeout (k : EntryKey)
  | identify (r : Request)
  | readWords (r : Request)
  | readGroup (r : Request)
  | writeWords (r : Request)
  | commit (r : Request)
  | bankSwitch
  | discard (r : Request)
  | readCounters (r : Request)
  | clearCounters (r : Request)
  | clearExcursion (r : Request)
  | testLine (r : Request)
  | pliAccess (r : Request)
  | restartHighway (r : Request)
  | highwayRestartingEnd
  | highwaySettlingEnd
  | restartNode (r : Request)
  | bypass (r : Request)
  | leaveBypass (r : Request)
  | replyWrite
  | badRequest (kind : Byte) (r : Request)
  deriving DecidableEq, Repr

end Sys2Proof
end

