-- ==== Sys2Proof/Machine/State.lean ====
section
/-! DEFINITION. Every piece of state the manual gives the concentrator, block by block, as plain data, and
its value after power-on. Fields marked MODEL hold what the manual implies and does not name: that a step
of the table has come due, or which frame a later step of the same frame time still writes to. -/

namespace Sys2Proof.Machine

/-- Why the machine stops with a fault. No command of the table does: the manual gives each of them an
effect in every state, so this type has no constructor. -/
inductive Fault where
  deriving DecidableEq, Repr

/-- Why a command has no meaning in the model. -/
inductive Refusal where
  /-- Raised by an arm of `exec` whose command has no meaning yet (safe). No arm raises it. -/
  | notModelled (mnemonic : String)
  deriving DecidableEq, Repr

/-! ### Line Supervisor (chapter 1) -/

/-- A settled line state, or a candidate class (1.1). -/
inductive LineState where
  | unknown | cut | onhook | offhook | short
  deriving DecidableEq, Repr

/-- The condition a PLI applies to a line (1.1). -/
inductive DriveMode where
  | normal | reversed | ring | discharge | charge
  deriving DecidableEq, Repr

/-- The reasons a port is frozen (1.1, R7). -/
structure FreezeCauses where
  test     : Bool := false
  reversal : Bool := false
  pli      : Bool := false
  highway  : Bool := false
  deriving DecidableEq, Repr

/-- The fault set of a port (1.1, R22). -/
structure FaultSet where
  cut            : Bool := false
  short          : Bool := false
  insulationLow  : Bool := false
  wiringReversed : Bool := false
  pliAbsent      : Bool := false
  feedLimit      : Bool := false
  pliSupply      : Bool := false
  deriving DecidableEq, Repr

/-- What LSV keeps for a port (1.1). -/
structure PortLine where
  filtered  : Int := 0
  settled   : LineState := .unknown
  candidate : Option LineState := none
  debounce  : Nat := 0
  causes    : FreezeCauses := {}
  reversal  : Nat := 0
  polarity  : Nat := 0
  excHigh   : Bool := false
  excLow    : Bool := false
  brake     : Bool := false
  drive     : DriveMode := .normal
  faults    : FaultSet := {}
  /-- MODEL: the debounce count reached its value at the boundary last taken (R4), so SETTLE is due. -/
  settleDue : Bool := false
  deriving DecidableEq, Repr

/-- The phase of the node's insulation test (1.1). -/
inductive TestPhase where
  | idle | discharge | charge | resultWait
  deriving DecidableEq, Repr

/-- The outcome of an insulation test (1.1). -/
inductive TestOutcome where
  | pass | low | abortedUse | aborted
  deriving DecidableEq, Repr

/-- The Line Supervisor. -/
structure Lsv where
  lines        : Vector PortLine 32
  testPhase    : TestPhase
  testPort     : Option PortNo
  phaseCount   : Nat
  schedule     : Nat
  pointer      : PortNo
  lastTest     : Option (PortNo × TestOutcome)
  /-- MODEL: the schedule count reached ins_period at the boundary last taken (R17): TEST_POINT is due. -/
  testPointDue : Bool
  deriving DecidableEq, Repr

/-! ### Identity Decoders (chapter 2) -/

/-- The loop as a fast-hook bit shows it: a break reads open, a make reads closed (2.1). -/
inductive Loop where
  | broken | made
  deriving DecidableEq, Repr

/-- What a decoder is doing (2.2). -/
inductive DecoderState where
  | free | hunt | start | bits
  deriving DecidableEq, Repr

/-- Which run of the current bit a decoder times (2.2). -/
inductive BitPhase where
  | make | brk
  deriving DecidableEq, Repr

/-- One identity decoder (2.2). -/
structure Decoder where
  state     : DecoderState := .free
  port      : Option PortNo := none
  previous  : Option Loop := none
  run       : Nat := 0
  phase     : BitPhase := .make
  index     : Nat := 0
  bits      : List Bool := []
  failed    : Nat := 0
  startSeen : Bool := false
  window    : Nat := 0
  deriving DecidableEq, Repr

/-- A port in the decoder wait list and its wait count (2.2). -/
structure Waiter where
  port  : PortNo
  count : Nat
  deriving DecidableEq, Repr

/-- The Identity Decoders. -/
structure Idd where
  decoders : Vector Decoder 4
  waiting  : List Waiter
  deriving DecidableEq, Repr

/-! ### Call Controller (chapter 3) -/

/-- Where a call stands (3.1). -/
inductive CallState where
  | idle | waiting | offered | alerting | connected | held | ringing | cleared | parked
  deriving DecidableEq, Repr

/-- The identity outcome of a call (3.1); absent is `none` in the record. -/
inductive IdOutcome where
  | pending | verified | mismatch | malformed | absent | uncheckedBusy | notFitted
  deriving DecidableEq, Repr

/-- The latched fields of a post entry (R157). -/
structure Latched where
  lineType : Fin 4
  offset   : Int
  slope    : Nat
  idFitted : Bool
  code     : Nat
  deriving DecidableEq, Repr

/-- A port's call record (3.1). -/
structure CallRecord where
  state       : CallState := .idle
  ref         : Option Nat := none
  baseClass   : Option (Fin 4) := none
  effClass    : Option (Fin 4) := none
  repeated    : Bool := false
  reest       : Bool := false
  announced   : Bool := false
  channel     : Option ChanNo := none
  lastChannel : Option ChanNo := none
  identity    : Option IdOutcome := none
  code        : Option Nat := none
  matched     : Option PortNo := none
  age         : Nat := 0
  time        : Nat := 0
  createdAt   : BitVec 32 := 0
  latched     : Option Latched := none
  repeatUntil : Option (BitVec 32) := none
  deriving DecidableEq, Repr

/-- A carriageway (11.1). -/
inductive Carriageway where
  | a | b
  deriving DecidableEq, Repr

/-- A post kind (11.1). -/
inductive PostKind where
  | hardShoulder | layBy | slipRoad | tunnel
  deriving DecidableEq, Repr

/-- Where a post stands. -/
structure Location where
  carriageway : Carriageway
  kind        : PostKind
  distance    : Nat
  deriving DecidableEq, Repr

/-- Why a call was closed or a recall refused (13.3). -/
inductive CloseReason where
  | callerCleared | operatorCleared | abandoned | noAnswer | recallCancelled | lineFault
  | equipmentFault | equipmentRestart | portDisabled | channelLost
  | refusedBusy | refusedDisabled | refusedLine | refusedChannel
  deriving DecidableEq, Repr

/-- An entry of the closing list (R43, R58). -/
structure ClosingEntry where
  /-- MODEL: the number by which the report list names this entry (R86: the key of a CLOSE entry). -/
  entry    : Nat
  ref      : Option Nat
  port     : PortNo
  reason   : CloseReason
  channel  : Option ChanNo
  duration : Nat
  location : Location
  deriving DecidableEq, Repr

/-- The Call Controller. -/
structure Ccl where
  records     : Vector CallRecord 32
  superframes : BitVec 32
  refCounter  : Nat
  queue       : List PortNo
  closing     : List ClosingEntry
  /-- MODEL: the number the next closing entry is formed with. -/
  nextEntry   : Nat
  deriving DecidableEq, Repr

/-! ### Channel Agent (chapter 4) -/

/-- This node's hold on a trunk channel (4.2). -/
inductive ChanState where
  | none | claimed | bound | releasing
  deriving DecidableEq, Repr

/-- A channel map entry (4.2). -/
structure ChanEntry where
  state       : ChanState := .none
  port        : Option PortNo := Option.none
  timer       : Nat := 0
  mismatch    : Nat := 0
  /-- MODEL: the mismatch count reached withdraw_count in a processed frame (R73): WITHDRAWAL is due. -/
  withdrawDue : Bool := false
  deriving DecidableEq, Repr

/-- The Channel Agent. -/
structure Cha where
  map     : Vector ChanEntry 20
  holdoff : Nat
  deriving DecidableEq, Repr

/-! ### Signalling Unit (chapter 5) -/

/-- What the node does with the cell now passing (5.1). -/
inductive CellRole where
  | none | pass | consume | report
  deriving DecidableEq, Repr

/-- LISTED or SENT (R86). -/
inductive EntryStatus where
  | listed | sent
  deriving DecidableEq, Repr

/-- A report list entry (R86). -/
structure ReportEntry where
  key    : EntryKey
  status : EntryStatus := .listed
  timer  : Nat := 0
  echo   : Option Byte := Option.none
  deriving DecidableEq, Repr

/-- The NODE flags (5.1). -/
structure NodeFlags where
  restarted      : Bool := false
  numberConflict : Bool := false
  bypassLeft     : Bool := false
  deriving DecidableEq, Repr

/-- The Signalling Unit. -/
structure Sgu where
  role       : CellRole
  cell       : Nat
  nextPart   : Nat
  spoiled    : Bool
  command    : List Byte
  /-- The report being written, as composed at part 0 (R89). -/
  report     : Option CellBytes
  cellsTaken : Nat
  reports    : List ReportEntry
  flags      : NodeFlags
  /-- MODEL: the input whose stored frame holds part 0 of the cell taken for a report, which REPORT_SEND writes. -/
  emptyCell  : Option RingInput
  /-- MODEL: the complete command of the cell last consumed, until it is acted on (R85). -/
  dueCommand : Option Instr
  deriving DecidableEq, Repr

/-! ### Tone Generator (chapter 6) -/

/-- Which sound a call state calls for (6.2). -/
inductive CadenceRole where
  | none | queue | ringback | hold | clear | ring
  deriving DecidableEq, Repr

/-- The phase of a cadence (6.2). -/
inductive CadencePhase where
  | none | on | off | exhausted
  deriving DecidableEq, Repr

/-- One step of a cadence: its on and off durations, in superframes (6.1). -/
structure CadenceStep where
  on  : Nat
  off : Nat
  deriving DecidableEq, Repr

/-- The latched copy of a cadence entry (6.2). -/
structure CadenceCopy where
  number  : Nat
  tone    : Nat
  steps   : List CadenceStep
  repeats : Nat
  deriving DecidableEq, Repr

/-- The cadence state of a port (6.2). -/
structure Cadence where
  role        : CadenceRole := .none
  copy        : Option CadenceCopy := Option.none
  step        : Nat := 0
  phase       : CadencePhase := .none
  remaining   : Nat := 0
  repeatsLeft : Nat := 0
  acc1        : BitVec 16 := 0
  acc2        : BitVec 16 := 0
  deriving DecidableEq, Repr

/-- The Tone Generator. -/
structure Tgn where
  ports  : Vector Cadence 32
  /-- MODEL: the cadences from which the tone samples of the highway frame being sent were formed (R106). -/
  formed : Vector Cadence 32
  deriving DecidableEq, Repr

/-! ### Voice Conditioner (chapter 7) -/

/-- VCN's items for a trunk channel (7.1). -/
structure VoiceChannel where
  gain     : Nat := 32
  peak     : Nat := 0
  block    : Nat := 0
  lastDown : Int := 0
  missing  : Nat := 0
  tally    : Nat := 0
  /-- MODEL: a downlink sample has been received since the last highway frame (R116). -/
  received : Bool := false
  deriving DecidableEq, Repr

/-- The Voice Conditioner. -/
structure Vcn where
  channels : Vector VoiceChannel 20
  uplink   : Vector Int 32
  deriving DecidableEq, Repr

/-! ### Ring Interface (chapter 8) -/

/-- Whether an input's frame timing is known (8.2). -/
inductive RxState where
  | search | track
  deriving DecidableEq, Repr

/-- What an input brought in a frame time (8.2). -/
inductive FrameClass where
  | good | bad | lost
  deriving DecidableEq, Repr

/-- A frame's marker (8.1). -/
inductive Marker where
  | active | standby | ret
  deriving DecidableEq, Repr

/-- What RIF keeps for an input (8.2). `timing` is the phase of the input's frame times, in bit times. -/
structure InputPort where
  rx         : RxState := .search
  timing     : Nat := 0
  lastClass  : FrameClass := .lost
  lastMarker : Option Marker := Option.none
  store      : Option Frame := Option.none
  /-- MODEL: the bytes of the last frame time in which SEARCH may still find a mark; in TRACK those of a frame that
  has begun at the start of this one (R120). -/
  seen       : List Byte := []
  /-- MODEL: where the first of them stands, in bit times after the start of that frame time. -/
  seenAt     : Nat := 0
  /-- MODEL: the bit times since the frame timing last came round, at the end of the input's last frame time or at the
  mark to which the timing moved (R120, R130). -/
  since      : Nat := 0
  deriving DecidableEq, Repr

/-- The node frame clock (8.7). -/
structure Clock where
  following   : Bool
  number      : Nat
  superframe  : Nat
  reference   : Option RingInput
  /-- The phase of the node frame times, in bit times. -/
  timing      : Nat
  /-- MODEL: the first frame time after power-on has begun (R129). -/
  started     : Bool
  /-- MODEL: the frame time now running is numbered 0 and its boundary has not been taken (R128). -/
  boundaryDue : Bool
  /-- MODEL: the bit times since the frame time now running began (R130). -/
  age         : Nat
  /-- MODEL: the timing at which the frame time now running began: in HOLDOVER the next follows it at one frame
  time (R129). -/
  phase       : Nat
  /-- MODEL: the frame time now running spans a realignment to another timing (R130). -/
  spanning    : Bool
  deriving DecidableEq, Repr

/-- What an output is sending (8.5). -/
structure OutPort where
  /-- The frame last begun. -/
  frame  : Option Frame := Option.none
  /-- MODEL: the input whose stored frame it is, to which later steps of the frame time still write. -/
  source : Option RingInput := Option.none
  /-- MODEL: the bit times in which it is still being sent; at 0 the output may begin another (R126). -/
  left   : Nat := 0
  deriving DecidableEq, Repr

/-- The Ring Interface. -/
structure Rif where
  pinPort   : InputPort
  sinPort   : InputPort
  clock     : Clock
  pout      : OutPort
  sout      : OutPort
  /-- MODEL: the input whose frame timing, the reference's, has come round, at an end or at a mark to which it moved, at
  which the next node frame time begins (R128, R130). -/
  ended     : Option RingInput
  /-- MODEL: a frame was processed since the node frame time began (R123). -/
  processed : Bool
  /-- MODEL: MGA was handed a management field since the node frame time began (R166). -/
  fieldSeen : Bool
  deriving DecidableEq, Repr

/-! ### Protection Controller (chapter 9) -/

/-- What PRC keeps for an input (9.2). -/
structure InputHealth where
  up      : Bool := false
  miss    : Nat := 8
  upCount : Nat := 0
  active  : Nat := 0
  idle    : Nat := 16
  /-- MODEL: the frame time that ended last brought the miss count of an UP input to 8 (R135): INPUT_DOWN is due. -/
  downDue : Bool := false
  deriving DecidableEq, Repr

/-- How the node routes and serves frames (9.2). -/
inductive ProtState where
  | through | wrapA | wrapB | isolated | bypass
  deriving DecidableEq, Repr

/-- Why the node is in BYPASS (9.2). -/
inductive BypassCause where
  | request | straps
  deriving DecidableEq, Repr

/-- The Protection Controller. -/
structure Prc where
  pinHealth  : InputHealth
  sinHealth  : InputHealth
  state      : ProtState
  service    : Option RingInput
  hold       : Nat
  cause      : Option BypassCause
  /-- MODEL: the hold count reached 0 at the boundary last taken (R140): SWITCHOVER_HOLD_END is due. -/
  holdEndDue : Bool
  /-- MODEL: the conditions of follow-active held at the end of the input frame time that ended last (R138):
  FOLLOW_ACTIVE is due. -/
  followDue  : Bool
  deriving DecidableEq, Repr

/-! ### Highway Controller (chapter 10) -/

/-- Whether the uplink is taken (10.2). -/
inductive HighwayState where
  | running | restarting | settling
  deriving DecidableEq, Repr

/-- A PLI status word: feed-limit of each line, and supply-low (10.2). -/
structure StatusWord where
  feed   : BitVec 4 := 0
  supply : Bool := false
  deriving DecidableEq, Repr

/-- What HWC keeps for a PLI position (10.2). -/
structure Pli where
  ready        : Bool := false
  readyCount   : Nat := 0
  lossCount    : Nat := 0
  lossReported : Bool := false
  status       : StatusWord := {}
  /-- MODEL: the uplink slot last taken from this position, which PLI_READY hands on (R149). -/
  slot         : PliSlot := Vector.replicate 16 0
  deriving DecidableEq, Repr

/-- The PLI access in flight (10.5). -/
structure Access where
  position : PliNo
  index    : Nat
  write    : Bool
  data     : Word
  sent     : Bool
  timer    : Nat
  /-- The request, whose tag and arguments the reply echoes (R171). -/
  request  : Request
  /-- MODEL: a downlink frame has been composed since the access was taken (R153): ACCESS_SENT is due. -/
  composed : Bool
  /-- MODEL: the access was sent in the frame time now running (R153: only later frame times count). -/
  fresh    : Bool
  /-- MODEL: the data of a matching reply not yet taken (R153): ACCESS_REPLY is due. -/
  reply    : Option Word
  deriving DecidableEq, Repr

/-- The access field of a downlink frame (R147, 13.5). -/
structure AccessField where
  write    : Bool
  position : PliNo
  index    : Nat
  data     : Word
  deriving DecidableEq, Repr

/-- A downlink frame of the post highway (R147). -/
structure Downlink where
  number  : Nat
  restart : Bool
  access  : Option AccessField
  voice   : Vector Int 32
  drives  : Vector DriveMode 32
  /-- MODEL: the voice samples are those formed for this frame in RUNNING: a realignment sends the previous ones
  in their place, and a switch of the tables forms its tones afresh. -/
  live    : Bool
  deriving DecidableEq, Repr

/-- The Highway Controller. -/
structure Hwc where
  state      : HighwayState
  phaseCount : Nat
  plis       : Vector Pli 8
  access     : Option Access
  /-- The downlink frame being sent. -/
  downlink   : Option Downlink
  /-- The voice samples of the downlink frame before it, which a slip sends again (R147). -/
  lastVoice  : Vector Int 32
  /-- MODEL: the frame time now running began in the present restart (R146: only such count). -/
  phaseRun   : Bool
  deriving DecidableEq, Repr

/-! ### Table Store (chapter 11) -/

/-- One bank of the five loadable tables: the words that differ from their power-on value, in ascending
order of address (`Machine/Tables.lean` gives the addresses and the power-on words). -/
abbrev Bank := List (Nat × Word)

/-- The Table Store. -/
structure Tbs where
  shadow    : Bank
  active    : Bank
  /-- The switch state: set while PENDING. -/
  switching : Bool
  /-- The identity index: each code with its port (R162). -/
  index     : List (Nat × PortNo)
  /-- MODEL: a boundary has been taken since the commit (R160): BANK_SWITCH is due. -/
  switchDue : Bool
  deriving DecidableEq, Repr

/-! ### Management Agent (chapter 12) -/

/-- The management message now passing (12.1). -/
structure Assembly where
  next    : Nat
  bytes   : List Byte
  spoiled : Bool
  deriving DecidableEq, Repr

/-- A reply being written, with its next part (12.1). -/
structure Writing where
  reply : Message
  next  : Nat
  deriving DecidableEq, Repr

/-- The Management Agent. -/
structure Mga where
  assembly   : Assembly
  buffer     : Option Message
  writing    : Option Writing
  /-- The valid request taken, until it is executed at the boundary (R166). -/
  taken      : Option Instr
  /-- MODEL: the input whose stored frame begins an EMPTY message that REPLY_WRITE may take (R168). -/
  emptyStart : Option RingInput
  deriving DecidableEq, Repr

/-! ### Counters (Introduction 5, 13.7) -/

/-- The counters of the node, in the order of the counters view (13.7). -/
inductive Counter where
  | testsPassed | testsLow | testsAborted
  | idVerified | idMismatch | idMalformed | idAbsent | idUncheckedBusy | idNotFitted | idFailedBursts
  | briefLifts | staleCommands | staleState | closesLost | forcedEnds
  | claimsWon | claimsLost | claimTimeouts | wastedWins | numberConflicts | withdrawals
  | releaseTimeouts | assignmentsRefused | assignmentsExpired
  | reportsSent | reportsSpoiled | relists | commandsTaken | badCommands | staleAcks
  | badFramesPin | badFramesSin | lostFramesPin | lostFramesSin | fillFramesPout | fillFramesSout
  | renumbers | slips | framesProcessed
  | lossesPin | lossesSin | serviceChanges | isolations
  | pliLosses | highwayRestarts | pliTimeouts | pliStrayReplies
  | requestsTaken | messagesSpoiled | repliesLost | repliesSpoiled
  deriving DecidableEq, Repr

/-- The concentrator. -/
structure State where
  /-- The reading of the node-number straps at power-on (R144). -/
  straps   : BitVec 6
  lsv      : Lsv
  idd      : Idd
  ccl      : Ccl
  cha      : Cha
  sgu      : Sgu
  tgn      : Tgn
  vcn      : Vcn
  rif      : Rif
  prc      : Prc
  hwc      : Hwc
  tbs      : Tbs
  mga      : Mga
  /-- Every counter, each in its word of the counters view (13.7). -/
  counters : Vector Nat 51
  /-- MODEL: the commands waiting, first in first out. -/
  pending  : List Instr
  deriving DecidableEq, Repr

/-- A strap reading that is no node number holds the node in BYPASS (R144). -/
def unaddressable (straps : BitVec 6) : Bool := straps == 0 || straps == 63

/-- A port's line after power-on: frozen by PLI and HIGHWAY, with PLI-ABSENT, since the default tables
enable every port (R24). -/
def PortLine.powerOn : PortLine :=
  { causes := { pli := true, highway := true }, faults := { pliAbsent := true } }

/-- The whole part after power-on with the straps as read (R24, R38, R63, R81, R98, R108, R119, R134,
R145, R155, R165, R173). -/
def State.powerOn (straps : BitVec 6) : State where
  straps := straps
  lsv :=
    { lines := Vector.replicate 32 PortLine.powerOn, testPhase := .idle, testPort := none, phaseCount := 0,
      schedule := 0, pointer := 31, lastTest := none, testPointDue := false }
  idd := { decoders := Vector.replicate 4 {}, waiting := [] }
  ccl :=
    { records := Vector.replicate 32 {}, superframes := 0, refCounter := 0, queue := [], closing := [],
      nextEntry := 0 }
  cha := { map := Vector.replicate 20 {}, holdoff := 0 }
  sgu :=
    { role := .none, cell := 0, nextPart := 0, spoiled := false, command := [], report := none,
      cellsTaken := 0,
      reports := if unaddressable straps then [] else [{ key := .node }],
      flags := if unaddressable straps then {} else { restarted := true },
      emptyCell := none, dueCommand := none }
  tgn := { ports := Vector.replicate 32 {}, formed := Vector.replicate 32 {} }
  vcn := { channels := Vector.replicate 20 {}, uplink := Vector.replicate 32 0 }
  rif :=
    { pinPort := {}, sinPort := {},
      clock :=
        { following := false, number := 0, superframe := 0, reference := none, timing := 0,
          started := false, boundaryDue := false, age := Config.frameBits, phase := 0, spanning := false },
      pout := {}, sout := {},
      ended := none, processed := false, fieldSeen := false }
  prc :=
    { pinHealth := {}, sinHealth := {},
      state := if unaddressable straps then .bypass else .isolated,
      service := none, hold := 0,
      cause := if unaddressable straps then some .straps else none,
      holdEndDue := false, followDue := false }
  hwc :=
    { state := .restarting, phaseCount := Config.restartFrames, plis := Vector.replicate 8 {},
      access := none, downlink := none, lastVoice := Vector.replicate 32 0, phaseRun := false }
  tbs := { shadow := [], active := [], switching := false, index := [], switchDue := false }
  mga :=
    { assembly := { next := 0, bytes := [], spoiled := false }, buffer := none, writing := none,
      taken := none, emptyStart := none }
  counters := Vector.replicate 51 0
  pending := []

/-- The node number State.reset's straps read. DESIGN CHOICE: the straps are the installer's and the
manual gives no reading; unsafe for a node strapped otherwise (log entry 1). -/
def resetStraps : BitVec 6 := 1

/-- The machine right after power-on, with the straps reading node number 1. -/
def State.reset : State := State.powerOn resetStraps

end Sys2Proof.Machine
end

