-- ==== Sys2Proof/Machine/Tables.lean ====
section
/-! DEFINITION. The loadable tables word by word: addresses, power-on contents, the bits that fields
occupy, and the entries the blocks read (chapter 11, 13.6). Also the node's counters and views' targets. -/

namespace Sys2Proof.Machine

/-- The five loadable tables (11.1). -/
inductive Table where
  | post | thresholds | sect | cadences | tones
  deriving DecidableEq, Repr

/-- Words in all (11.1). -/
def Table.size : Table → Nat
  | .post => 512
  | .thresholds => 32
  | .sect => 32
  | .cadences => 96
  | .tones => 32

/-- The address of a table's word 0 in a bank: the five tables stand one after another. -/
def Table.base : Table → Nat
  | .post => 0
  | .thresholds => 512
  | .sect => 544
  | .cadences => 576
  | .tones => 672

/-- Words of a bank in all. -/
def bankSize : Nat := 704

/-- Word `k` of every post entry at power-on (R165, 13.6). -/
def defaultPost (k : Nat) : Word :=
  [0x8002, 0, 0, 2000, 0x4040, 0, 0x2020, 0x2020, 0x2020, 0x2020].getD k 0

/-- Word `k` of every threshold set at power-on (R165, 13.6). -/
def defaultThreshold (k : Nat) : Word :=
  [30, 150, 700, 250, 0x0A05, 0xFA28, 0x0A19, 0x0500].getD k 0

/-- Word `k` of the section table at power-on (R165, R109, 13.6). -/
def defaultSect (k : Nat) : Word :=
  [64, 16, 64, 500, 50, 500, 250, 5000, 250, 30000, 15000, 30000, 100, 800, 240, 320,
   64, 96, 32, 64, 96, 128, 6000, 1500, 200, 7800, 0x6223, 0x0A32, 0x2010, 96, 0x0123, 4].getD k 0

/-- Word `k` of cadence entry `e` at power-on (R109, 13.6). -/
def defaultCadence (e k : Nat) : Word :=
  match e with
  | 0 => [0x0100, 200, 800].getD k 0
  | 1 => [0, 200, 100, 200, 1000].getD k 0
  | 2 => [0x0200, 100, 1400].getD k 0
  | 3 => [0, 100, 100].getD k 0
  | 4 => [20, 500, 1000].getD k 0
  | _ => 0

/-- Word `k` of tone entry `e` at power-on (R109, 13.6). -/
def defaultTone (e k : Nat) : Word :=
  match e with
  | 0 => [425, 0, 2600].getD k 0
  | 1 => [400, 450, 1800].getD k 0
  | 2 => [440, 0, 1500].getD k 0
  | _ => 0

/-- The power-on word at an address of a bank (R165): what an unlisted word reads as. -/
def defaultWord (a : Nat) : Word :=
  if a < 512 then defaultPost (a % 16)
  else if a < 544 then defaultThreshold (a % 8)
  else if a < 576 then defaultSect (a - 544)
  else if a < 672 then defaultCadence ((a - 576) / 12) ((a - 576) % 12)
  else if a < 704 then defaultTone ((a - 672) / 4) ((a - 672) % 4)
  else 0

/-- The bits of the word at an address that a field occupies (13.6). -/
def fieldMask (a : Nat) : Word :=
  if a < 512 then
    [0xFF03, 0x0FFF, 0x00FF, 0x0FFF, 0xFFFF, 0xFFFF, 0xFFFF, 0xFFFF, 0xFFFF, 0xFFFF].getD (a % 16) 0
  else if a < 544 then
    [0x03FF, 0x03FF, 0x03FF, 0x03FF, 0xFFFF, 0xFFFF, 0xFFFF, 0xFF00].getD (a % 8) 0
  else if a < 566 then 0xFFFF
  else if a < 576 then
    [0x7FFF, 0x7FFF, 0x7FFF, 0x1FFF, 0xF773, 0xFFFF, 0x7F7F, 0x007F, 0x7777, 0x0007].getD (a - 566) 0
  else if a < 672 then
    [0x07FF, 0x0FFF, 0x0FFF, 0x0FFF, 0x0FFF, 0x0FFF, 0x0FFF, 0x0FFF, 0x0FFF].getD ((a - 576) % 12) 0
  else if a < 704 then [0x0FFF, 0x0FFF, 0x1FFF].getD ((a - 672) % 4) 0
  else 0

/-- The word at an address of a bank. -/
def Bank.read : Bank → Nat → Word
  | [], a => defaultWord a
  | (a', w) :: rest, a => if a = a' then w else Bank.read rest a

/-- A bank with the word at `a` set to `w`, in canonical form. -/
def Bank.put : Bank → Nat → Word → Bank
  | [], a, w => if w = defaultWord a then [] else [(a, w)]
  | (a', w') :: rest, a, w =>
    if a < a' then
      if w = defaultWord a then (a', w') :: rest else (a, w) :: (a', w') :: rest
    else if a = a' then
      if w = defaultWord a then rest else (a, w) :: rest
    else (a', w') :: Bank.put rest a w

/-- A write as R156 gives it: each field as written, the bits no field occupies 0. -/
def Bank.write (b : Bank) (a : Nat) (w : Word) : Bank :=
  if a < bankSize then Bank.put b a (w &&& fieldMask a) else b

/-- A word of a table; 0 beyond it. -/
def Bank.word (b : Bank) (t : Table) (k : Nat) : Word :=
  if k < t.size then Bank.read b (t.base + k) else 0

/-- The canonical form of a bank from address `lo` on: addresses rising and inside the tables, no word
equal to its power-on word, no bit outside the fields. -/
def Bank.wfFrom : Nat → Bank → Bool
  | _, [] => true
  | lo, (a, w) :: rest =>
    decide (lo ≤ a) && decide (a < bankSize) && decide (w ≠ defaultWord a) &&
      decide (w &&& fieldMask a = w) && Bank.wfFrom (a + 1) rest

/-- The canonical form of a bank. -/
def Bank.wf (b : Bank) : Bool := Bank.wfFrom 0 b

/-! ### Post entries -/

/-- The fields of a post entry (11.1). -/
structure PostEntry where
  enabled     : Bool
  idFitted    : Bool
  testEnabled : Bool
  location    : Location
  lineType    : Fin 4
  baseClass   : Fin 4
  code        : Nat
  offset      : Int
  slope       : Nat
  gainUp      : Nat
  gainDown    : Nat
  label       : List Word
  deriving DecidableEq, Repr

/-- A post kind from its two bits (13.3). -/
def PostKind.ofBits (n : Nat) : PostKind :=
  match n with
  | 0 => .hardShoulder
  | 1 => .layBy
  | 2 => .slipRoad
  | _ => .tunnel

/-- A two-bit field as a number below 4. -/
def fin4 (n : Nat) : Fin 4 := Fin.ofNat 4 n

/-- The entry of port `p` in a bank's post table (13.6). -/
def Bank.post (b : Bank) (p : PortNo) : PostEntry :=
  let w (k : Nat) : Word := Bank.read b (16 * p.val + k)
  { enabled := bitOf (w 0) 15, idFitted := bitOf (w 0) 14, testEnabled := bitOf (w 0) 13,
    location :=
      { carriageway := if bitOf (w 0) 12 then .b else .a, kind := .ofBits (bitsOf (w 0) 11 10),
        distance := (w 5).toNat },
    lineType := fin4 (bitsOf (w 0) 9 8), baseClass := fin4 (bitsOf (w 0) 1 0),
    code := bitsOf (w 1) 11 0, offset := (lower (w 2)).toInt, slope := bitsOf (w 3) 11 0,
    gainUp := bitsOf (w 4) 15 8, gainDown := bitsOf (w 4) 7 0,
    label := [w 6, w 7, w 8, w 9] }

/-- The latched fields of a post entry (R157). -/
def PostEntry.latched (e : PostEntry) : Latched :=
  { lineType := e.lineType, offset := e.offset, slope := e.slope, idFitted := e.idFitted, code := e.code }

/-! ### Threshold sets -/

/-- The fields of a threshold set (11.1): currents in dmA, debounce values in boundaries. -/
structure Thresholds where
  cutMax      : Nat
  offhookMin  : Nat
  shortMin    : Nat
  ringtripMin : Nat
  h           : Nat
  insThreshold : Nat
  debCut      : Nat
  debOnhook   : Nat
  debOffhook  : Nat
  debShort    : Nat
  debRingtrip : Nat
  deriving DecidableEq, Repr

/-- Threshold set `n` of a bank (13.6). -/
def Bank.thresholds (b : Bank) (n : Fin 4) : Thresholds :=
  let w (k : Nat) : Word := Bank.read b (512 + 8 * n.val + k)
  { cutMax := bitsOf (w 0) 9 0, offhookMin := bitsOf (w 1) 9 0, shortMin := bitsOf (w 2) 9 0,
    ringtripMin := bitsOf (w 3) 9 0, h := bitsOf (w 4) 15 8, insThreshold := bitsOf (w 4) 7 0,
    debCut := bitsOf (w 5) 15 8, debOnhook := bitsOf (w 5) 7 0, debOffhook := bitsOf (w 6) 15 8,
    debShort := bitsOf (w 6) 7 0, debRingtrip := bitsOf (w 7) 15 8 }

/-! ### The section table -/

/-- The fields of the section table, as stored (11.1). -/
structure Sect where
  claimTimeout   : Nat
  withdrawCount  : Nat
  releaseTimeout : Nat
  assignTimeout  : Nat
  switchoverHold : Nat
  upHold         : Nat
  reportConfirm  : Nat
  agePeriod      : Nat
  briefLift      : Nat
  repeatWindow   : Nat
  parkTimeout    : Nat
  insPeriod      : Nat
  pliLoss        : Nat
  identityWindow : Nat
  idStartMin     : Nat
  idStartMax     : Nat
  idMakeMin      : Nat
  idMakeMax      : Nat
  idZeroMin      : Nat
  idZeroMax      : Nat
  idOneMin       : Nat
  idOneMax       : Nat
  agcHigh        : Nat
  agcLow         : Nat
  agcFloor       : Nat
  limit          : Nat
  quota          : Nat
  cellShare      : Nat
  filterShift    : Nat
  ringAutoRestart : Bool
  agcEnable      : Bool
  tDis           : Nat
  tChg           : Nat
  aInit          : Nat
  aMin           : Nat
  aMax           : Nat
  selQueue       : Nat
  selRingback    : Nat
  selHold        : Nat
  selClear       : Nat
  selRing        : Nat
  deriving DecidableEq, Repr

/-- The section table of a bank (13.6). -/
def Bank.sect (b : Bank) : Sect :=
  let w (k : Nat) : Word := Bank.read b (544 + k)
  { claimTimeout := (w 0).toNat, withdrawCount := (w 1).toNat, releaseTimeout := (w 2).toNat,
    assignTimeout := (w 3).toNat, switchoverHold := (w 4).toNat, upHold := (w 5).toNat,
    reportConfirm := (w 6).toNat, agePeriod := (w 7).toNat, briefLift := (w 8).toNat,
    repeatWindow := (w 9).toNat, parkTimeout := (w 10).toNat, insPeriod := (w 11).toNat,
    pliLoss := (w 12).toNat, identityWindow := (w 13).toNat, idStartMin := (w 14).toNat,
    idStartMax := (w 15).toNat, idMakeMin := (w 16).toNat, idMakeMax := (w 17).toNat,
    idZeroMin := (w 18).toNat, idZeroMax := (w 19).toNat, idOneMin := (w 20).toNat,
    idOneMax := (w 21).toNat, agcHigh := bitsOf (w 22) 14 0, agcLow := bitsOf (w 23) 14 0,
    agcFloor := bitsOf (w 24) 14 0, limit := bitsOf (w 25) 12 0,
    quota := bitsOf (w 26) 15 12, cellShare := bitsOf (w 26) 10 8, filterShift := bitsOf (w 26) 6 4,
    ringAutoRestart := bitOf (w 26) 1, agcEnable := bitOf (w 26) 0,
    tDis := bitsOf (w 27) 15 8, tChg := bitsOf (w 27) 7 0,
    aInit := bitsOf (w 28) 14 8, aMin := bitsOf (w 28) 6 0, aMax := bitsOf (w 29) 6 0,
    selQueue := bitsOf (w 30) 14 12, selRingback := bitsOf (w 30) 10 8, selHold := bitsOf (w 30) 6 4,
    selClear := bitsOf (w 30) 2 0, selRing := bitsOf (w 31) 2 0 }

/-- The quota in force: 9 to 15 used as 8 (R79). -/
def Sect.quotaUsed (t : Sect) : Nat := min t.quota 8
/-- The cell share: 0 used as 1, above 4 used as 4 (R83). -/
def Sect.shareUsed (t : Sect) : Nat := min (atLeastOne t.cellShare) 4
/-- The filter shift: above 4 used as 4 (R2). -/
def Sect.shiftUsed (t : Sect) : Nat := min t.filterShift 4
/-- The identity window: 0 used as 1 (R26, R34). -/
def Sect.windowUsed (t : Sect) : Nat := atLeastOne t.identityWindow

/-! ### Cadence and tone entries -/

/-- Cadence entry `n` of a bank (13.6). -/
def Bank.cadence (b : Bank) (n : Nat) : CadenceCopy :=
  let w (k : Nat) : Word := Bank.read b (576 + 12 * (n % 8) + k)
  { number := n % 8, tone := bitsOf (w 0) 10 8,
    steps :=
      [⟨bitsOf (w 1) 11 0, bitsOf (w 2) 11 0⟩, ⟨bitsOf (w 3) 11 0, bitsOf (w 4) 11 0⟩,
       ⟨bitsOf (w 5) 11 0, bitsOf (w 6) 11 0⟩, ⟨bitsOf (w 7) 11 0, bitsOf (w 8) 11 0⟩],
    repeats := bitsOf (w 0) 7 0 }

/-- A tone entry: its two frequencies and its level (6.1). -/
structure ToneEntry where
  f1    : Nat
  f2    : Nat
  level : Nat
  deriving DecidableEq, Repr

/-- Tone entry `n` of a bank (13.6). -/
def Bank.tone (b : Bank) (n : Nat) : ToneEntry :=
  let w (k : Nat) : Word := Bank.read b (672 + 4 * (n % 8) + k)
  { f1 := bitsOf (w 0) 11 0, f2 := bitsOf (w 1) 11 0, level := bitsOf (w 2) 12 0 }

/-! ### Lists of the node's numbered things -/

/-- The ports in ascending order. -/
def allPorts : List PortNo :=
  [0, 1, 2, 3, 4, 5, 6, 7, 8, 9, 10, 11, 12, 13, 14, 15,
   16, 17, 18, 19, 20, 21, 22, 23, 24, 25, 26, 27, 28, 29, 30, 31]

/-- The trunk channels in ascending order. -/
def allChans : List ChanNo :=
  [0, 1, 2, 3, 4, 5, 6, 7, 8, 9, 10, 11, 12, 13, 14, 15, 16, 17, 18, 19]

/-- The PLI positions in ascending order. -/
def allPlis : List PliNo := [0, 1, 2, 3, 4, 5, 6, 7]

/-- The decoders in ascending order. -/
def allDecoders : List DecNo := [0, 1, 2, 3]

/-- Port p is line (p mod 4) of PLI (p div 4) (Introduction 4.2). -/
def pliOf (p : PortNo) : PliNo := ⟨p.val / 4, by omega⟩

/-- The line of a port within its PLI. -/
def lineOf (p : PortNo) : Fin 4 := ⟨p.val % 4, by omega⟩

/-- The port of a PLI's line. -/
def portAt (i : PliNo) (l : Fin 4) : PortNo := ⟨4 * i.val + l.val, by omega⟩

/-- The four ports of a PLI, in ascending order. -/
def portsOf (i : PliNo) : List PortNo := [portAt i 0, portAt i 1, portAt i 2, portAt i 3]

/-- A counter's word of the counters view (13.7). -/
def Counter.wordNo : Counter → Fin 51
  | .testsPassed => 0 | .testsLow => 1 | .testsAborted => 2
  | .idVerified => 3 | .idMismatch => 4 | .idMalformed => 5 | .idAbsent => 6 | .idUncheckedBusy => 7
  | .idNotFitted => 8 | .idFailedBursts => 9
  | .briefLifts => 10 | .staleCommands => 11 | .staleState => 12 | .closesLost => 13 | .forcedEnds => 14
  | .claimsWon => 15 | .claimsLost => 16 | .claimTimeouts => 17 | .wastedWins => 18
  | .numberConflicts => 19 | .withdrawals => 20 | .releaseTimeouts => 21 | .assignmentsRefused => 22
  | .assignmentsExpired => 23
  | .reportsSent => 24 | .reportsSpoiled => 25 | .relists => 26 | .commandsTaken => 27
  | .badCommands => 28 | .staleAcks => 29
  | .badFramesPin => 30 | .badFramesSin => 31 | .lostFramesPin => 32 | .lostFramesSin => 33
  | .fillFramesPout => 34 | .fillFramesSout => 35 | .renumbers => 36 | .slips => 37
  | .framesProcessed => 38
  | .lossesPin => 39 | .lossesSin => 40 | .serviceChanges => 41 | .isolations => 42
  | .pliLosses => 43 | .highwayRestarts => 44 | .pliTimeouts => 45 | .pliStrayReplies => 46
  | .requestsTaken => 47 | .messagesSpoiled => 48 | .repliesLost => 49 | .repliesSpoiled => 50

end Sys2Proof.Machine
end

