-- ==== Sys2Proof/Machine/Operands.lean ====
section
/-! DEFINITION. The operand forms: the fields of ring frames, cells, management messages and uplink slots
as the layouts of chapter 13 place them, the frame check, and the bytes the part writes. -/

namespace Sys2Proof.Machine

/-! ### The frame check (R175) -/

/-- One shift of the check register. -/
def checkShift (r : Nat) : Nat := if r < 32768 then 2 * r else (2 * r % 65536) ^^^ 0x1021

/-- Several shifts. -/
def checkShifts : Nat → Nat → Nat
  | 0, r => r
  | k + 1, r => forceNat (checkShift r) (checkShifts k)

/-- The check register after some bytes. -/
def checkBytes : List Byte → Nat → Nat
  | [], r => r
  | b :: bs, r => forceNat (checkShifts 8 (r ^^^ (b.toNat * 256))) (checkBytes bs)

/-- The frame check of some bytes: the register starts at 0xFFFF (R175). -/
def frameCheck (bs : List Byte) : Word := word (checkBytes bs 0xFFFF)

/-- The frame check over bytes 0 to 89 of a frame as they stand. -/
def checkOf (f : Frame) : Word := frameCheck (f.toList.take 90)

/-- A frame with its check value computed afresh (R124). -/
def withCheck (f : Frame) : Frame := putWord f 90 (checkOf f)

/-- A frame's check value is correct (8.1). -/
def checks (f : Frame) : Bool := wordAt f 90 == checkOf f

/-! ### The ring frame (13.1) -/

/-- The frame mark stands at position `j` of a run of bytes. -/
def markAt (l : List Byte) (j : Nat) : Bool := l.getD j 0 == 0xB6 && l.getD (j + 1) 0 == 0x4E

/-- The 92 bytes that begin at position `j` of a run of bytes. DESIGN CHOICE (log entry 5): a byte that the line
did not bring reads as 0. -/
def frameAt (l : List Byte) (j : Nat) : Frame := Vector.ofFn fun k => l.getD (j + k.val) 0

/-- The frame number: 0 to 15, in the low bits of its byte (R174). -/
def frameNumber (f : Frame) : Nat := (byteAt f 2).toNat % 16

/-- The superframe count. -/
def frameSuper (f : Frame) : Nat := (byteAt f 3).toNat

/-- The marker; an unknown one is read as STANDBY (R121). -/
def markerOf (f : Frame) : Marker :=
  if byteAt f 4 == 0x5A then .active else if byteAt f 4 == 0x66 then .ret else .standby

/-- The kinds of a tag (4.1). -/
inductive TagKind where
  | free | claim | grant | release | blocked
  deriving DecidableEq, Repr

/-- A channel's tag (4.1). -/
structure Tag where
  kind : TagKind
  node : BitVec 6
  deriving DecidableEq, Repr

/-- A tag kind from its code; none of the five is read as BLOCKED (R64). -/
def TagKind.ofByte (b : Byte) : TagKind :=
  if b == 0 then .free else if b == 1 then .claim else if b == 2 then .grant
  else if b == 3 then .release else .blocked

/-- The code of a tag kind (13.2). -/
def TagKind.code : TagKind → Byte
  | .free => 0
  | .claim => 1
  | .grant => 2
  | .release => 3
  | .blocked => 4

/-- The tag of channel `c` in a frame. -/
def tagOf (f : Frame) (c : ChanNo) : Tag :=
  { kind := .ofByte (byteAt f (5 + 2 * c.val)), node := (byteAt f (6 + 2 * c.val)).extractLsb' 0 6 }

/-- A frame with channel `c`'s tag rewritten. -/
def putTag (f : Frame) (c : ChanNo) (t : Tag) : Frame :=
  putByte (putByte f (5 + 2 * c.val) t.kind.code) (6 + 2 * c.val) (t.node.zeroExtend 8)

/-- The voice field of channel `c`, a signed sample. -/
def voiceOf (f : Frame) (c : ChanNo) : Int := (wordAt f (45 + 2 * c.val)).toInt

/-- A frame with channel `c`'s voice field overwritten. -/
def putVoice (f : Frame) (c : ChanNo) (x : Int) : Frame :=
  putWord f (45 + 2 * c.val) (BitVec.ofInt 16 x)

/-- The three bytes of the signalling field. -/
def signalOf (f : Frame) : List Byte := [byteAt f 85, byteAt f 86, byteAt f 87]

/-- A frame with its signalling field overwritten by part `k` of a cell. -/
def putSignal (f : Frame) (cell : CellBytes) (k : Nat) : Frame :=
  putByte (putByte (putByte f 85 (byteAt cell (3 * k))) 86 (byteAt cell (3 * k + 1))) 87
    (byteAt cell (3 * k + 2))

/-- EMPTY fill: twelve bytes of 0 (13.3). -/
def emptyFill : CellBytes := Vector.replicate 12 0

/-- The two bytes of the management field. -/
def mgmtOf (f : Frame) : List Byte := [byteAt f 88, byteAt f 89]

/-- A frame with its management field overwritten by part `k` of a message. -/
def putMgmt (f : Frame) (m : Message) (k : Nat) : Frame :=
  putByte (putByte f 88 (byteAt m (2 * k))) 89 (byteAt m (2 * k + 1))

/-- The code of a marker (13.1). -/
def Marker.code : Marker → Byte
  | .active => 0x5A
  | .standby => 0x33
  | .ret => 0x66

/-- A frame turned back: marked RETURN, with a fresh check (R125). -/
def turnBack (f : Frame) : Frame := withCheck (putByte f 4 Marker.ret.code)

/-- A fill frame with the numbers given: STANDBY, every tag FREE, every voice field 0, an EMPTY cell part
and message part, and a correct check (R127). -/
def fillFrame (number super : Nat) : Frame :=
  withCheck (putByte (putByte (putByte (putByte (putByte (Vector.replicate 92 0) 0 0xB6) 1 0x4E) 2
    (byte number)) 3 (byte super)) 4 Marker.standby.code)

/-! ### Cells (13.3) -/

/-- The kinds of a cell. -/
inductive CellKind where
  | empty | command | report | other
  deriving DecidableEq, Repr

/-- The kind in bits 7–6 of a cell's first byte. -/
def cellKind (b : Byte) : CellKind :=
  match b.toNat / 64 with
  | 0 => .empty
  | 1 => .command
  | 2 => .report
  | _ => .other

/-- A list of bytes as a cell: bytes past its end are 0. -/
def cellOfList (l : List Byte) : CellBytes := Vector.ofFn fun i => l.getD i.val 0

/-- A list of bytes as a message: bytes past its end are 0. -/
def messageOfList (l : List Byte) : Message := Vector.ofFn fun i => l.getD i.val 0

/-! ### Management requests (13.4) -/

/-- What a table request names (13.4). -/
inductive Target where
  | table (t : Table)
  | portStatus | channelMap | counterView | nodeStatus
  deriving DecidableEq, Repr

/-- A target's code (13.4). -/
def Table.code : Table → Nat
  | .post => 0
  | .thresholds => 1
  | .sect => 2
  | .cadences => 3
  | .tones => 4

/-- Words of a target in all (11.1, R164). -/
def Target.size : Target → Nat
  | .table t => t.size
  | .portStatus => 512
  | .channelMap => 160
  | .counterView => 56
  | .nodeStatus => 24

end Sys2Proof.Machine

namespace Sys2Proof

open Machine

/-- The target in bits 3–0 of byte 4; none where the code names no table and no view. -/
def Request.target (r : Request) : Option Target :=
  match r.flags.toNat % 16 with
  | 0 => some (.table .post)
  | 1 => some (.table .thresholds)
  | 2 => some (.table .sect)
  | 3 => some (.table .cadences)
  | 4 => some (.table .tones)
  | 8 => some .portStatus
  | 9 => some .channelMap
  | 10 => some .counterView
  | 11 => some .nodeStatus
  | _ => none

/-- PLI write, bit 4 of byte 4. -/
def Request.pliWrite (r : Request) : Bool := r.flags.getLsbD 4
/-- The force flag, bit 5 of byte 4. -/
def Request.force (r : Request) : Bool := r.flags.getLsbD 5
/-- The clear flag, bit 6 of byte 4. -/
def Request.clearFlag (r : Request) : Bool := r.flags.getLsbD 6
/-- The active bank is named, bit 7 of byte 4. -/
def Request.activeBank (r : Request) : Bool := r.flags.getLsbD 7
/-- The count, in byte 5. -/
def Request.count (r : Request) : Nat := r.unit.toNat
/-- The first index, in bytes 6–7. -/
def Request.index (r : Request) : Nat := r.first.toNat
/-- The port of byte 5, if it is one. -/
def Request.port (r : Request) : Option PortNo :=
  if h : r.unit.toNat < 32 then some ⟨r.unit.toNat, h⟩ else none
/-- The PLI position of byte 5, if it is one. -/
def Request.position (r : Request) : Option PliNo :=
  if h : r.unit.toNat < 8 then some ⟨r.unit.toNat, h⟩ else none
/-- Word `k` of the data, from byte 8 on. -/
def Request.word (r : Request) (k : Nat) : Word := wordAt r.data (2 * k)

/-- Count 1 to 12 and every index inside `size` words (R169, R170). -/
def Request.rangeOk (r : Request) (size : Nat) : Bool :=
  decide (1 ≤ r.count) && decide (r.count ≤ 12) && decide (r.index + r.count ≤ size)

end Sys2Proof

namespace Sys2Proof.Machine

/-- A port from a byte of a command, if it is one. -/
def portOfByte (b : Byte) : Option PortNo :=
  if h : b.toNat < 32 then some ⟨b.toNat, h⟩ else none

/-- A channel from a byte of a command, if it lies in 0 to 19. -/
def chanOfByte (b : Byte) : Option ChanNo :=
  if h : b.toNat < 20 then some ⟨b.toNat, h⟩ else none

/-! ### Uplink slots (13.5) -/

/-- The ready bit. -/
def slotReady (x : PliSlot) : Bool := (byteAt x 0).getLsbD 7
/-- The fast-hook bit of a line: 1 is open. -/
def slotHook (x : PliSlot) (l : Fin 4) : Loop :=
  if (byteAt x 0).getLsbD l.val then .broken else .made
/-- The speech sample of a line: 14 bits signed, carried in a 16-bit field. DESIGN CHOICE (log entry 33): it is
read from the low 14 bits, whatever the two above them hold. -/
def slotVoice (x : PliSlot) (l : Fin 4) : Int :=
  ((wordAt x (1 + 2 * l.val)).extractLsb' 0 14).toInt
/-- The measured line. -/
def slotLine (x : PliSlot) : Fin 4 := fin4 ((byteAt x 9).toNat % 4)

/-- The tag of a measurement (1.2). -/
inductive MeasureTag where
  | normal | discharge | charge | result
  deriving DecidableEq, Repr

/-- The tag of the measurement, bits 5–4 of byte 9. -/
def slotTag (x : PliSlot) : MeasureTag :=
  match (byteAt x 9).toNat / 16 % 4 with
  | 0 => .normal
  | 1 => .discharge
  | 2 => .charge
  | _ => .result

/-- The measurement code, 0 to 4095. -/
def slotCode (x : PliSlot) : Nat := (wordAt x 10).toNat % 4096
/-- The status word. -/
def slotStatus (x : PliSlot) : StatusWord :=
  { feed := (byteAt x 12).extractLsb' 0 4, supply := (byteAt x 12).getLsbD 4 }
/-- The reply field, when valid: the echoed index and the reply data. -/
def slotReply (x : PliSlot) : Option (Nat × Word) :=
  if (byteAt x 13).getLsbD 7 then some ((byteAt x 13).toNat % 64, wordAt x 14) else none

/-- The byte of a status word, as uplink byte 12 codes it. -/
def StatusWord.code (w : StatusWord) : Byte := byte (w.feed.toNat + 16 * bit01 w.supply)

/-! ### The downlink frame (13.5) -/

/-- The code of a drive mode. -/
def DriveMode.code : DriveMode → Nat
  | .normal => 0
  | .reversed => 1
  | .ring => 2
  | .discharge => 3
  | .charge => 4

/-- The drive word of PLI `i`. -/
def driveWord (d : Vector DriveMode 32) (i : PliNo) : Word :=
  word (d[portAt i 0].code + 16 * d[portAt i 1].code + 256 * d[portAt i 2].code
    + 4096 * d[portAt i 3].code)

/-- Bytes 3 to 6 of the downlink frame. DESIGN CHOICE (log entry 39): with valid clear all four are 0. -/
def AccessField.bytes : Option AccessField → List Byte
  | none => [0, 0, 0, 0]
  | some a =>
    [byte (128 + 64 * bit01 a.write + a.position.val), byte a.index, upper a.data, lower a.data]

/-- The 87 bytes of a downlink frame as the highway carries them. DESIGN CHOICE (log entry 33): a sample stands
in its 16-bit field with its sign extended. -/
def Downlink.bytes (d : Downlink) : List Byte :=
  [0x71, 0xD2, byte (d.number + 128 * bit01 d.restart)] ++ AccessField.bytes d.access
    ++ d.voice.toList.flatMap (fun x => [upper (BitVec.ofInt 16 x), lower (BitVec.ofInt 16 x)])
    ++ allPlis.flatMap (fun i => [upper (driveWord d.drives i), lower (driveWord d.drives i)])

end Sys2Proof.Machine
end

