-- ==== Sys2Proof/Decode.lean ====
section
/-! DEFINITION. The commands that reach the part as bytes: signalling commands from a complete cell (13.3)
and management requests from a valid message (13.4), with the encoders of both. The rows of
spec/opcode_table.json give no bits, so no table word spells a command. -/

namespace Sys2Proof

open Machine

/-- The type of a cell: bits 5–0 of its first byte (13.3). -/
def cellType (c : CellBytes) : Nat := (byteAt c 0).toNat % 64

/-- The command of a complete command cell; none for a type that is none of the seven (R85). Bytes past the
fields of the command are not looked at. -/
def decodeCommand (c : CellBytes) : Option Instr :=
  match cellType c with
  | 1 => some (.ack (byteAt c 2) (byteAt c 3) (byteAt c 4) (byteAt c 5))
  | 2 => some (.answer (byteAt c 2))
  | 3 => some (.hold (byteAt c 2))
  | 4 => some (.resume (byteAt c 2))
  | 5 => some (.clear (byteAt c 2))
  | 6 => some (.recall (byteAt c 2) (byteAt c 3))
  | 7 => some (.cancel (byteAt c 2))
  | _ => none

/-- The bytes of a command cell of a type, to a node, with its fields from byte 2 on. -/
def commandCell (type : Nat) (node : Byte) (fields : List Byte) : CellBytes :=
  cellOfList (byte (64 + type) :: node :: fields)

/-- The cell in which the control centre sends a signalling command to a node; none for a command that no
cell carries. -/
def encodeCommand (node : Byte) : Instr → Option CellBytes
  | .ack k p r e => some (commandCell 1 node [k, p, r, e])
  | .answer r => some (commandCell 2 node [r])
  | .hold r => some (commandCell 3 node [r])
  | .resume r => some (commandCell 4 node [r])
  | .clear r => some (commandCell 5 node [r])
  | .recall p c => some (commandCell 6 node [p, c])
  | .cancel p => some (commandCell 7 node [p])
  | _ => none

/-- The arguments of a request message (13.4). -/
def requestOf (m : Message) : Request :=
  { tag := byteAt m 3, flags := byteAt m 4, unit := byteAt m 5, first := wordAt m 6,
    data := Vector.ofFn fun i => byteAt m (8 + i.val) }

/-- The request of a valid REQUEST message; a type outside the fifteen is a bad request (R167). -/
def decodeRequest (m : Message) : Instr :=
  let r := requestOf m
  match (byteAt m 2).toNat with
  | 1 => .identify r
  | 2 => .readWords r
  | 3 => .readGroup r
  | 4 => .writeWords r
  | 5 => .commit r
  | 6 => .discard r
  | 7 => .readCounters r
  | 8 => .clearCounters r
  | 9 => .clearExcursion r
  | 10 => .testLine r
  | 11 => .pliAccess r
  | 12 => .restartHighway r
  | 13 => .restartNode r
  | 14 => .bypass r
  | 15 => .leaveBypass r
  | _ => .badRequest (byteAt m 2) r

/-- The request type and arguments of a management request; none for any other command. -/
def Instr.request : Instr → Option (Byte × Request)
  | .identify r => some (1, r)
  | .readWords r => some (2, r)
  | .readGroup r => some (3, r)
  | .writeWords r => some (4, r)
  | .commit r => some (5, r)
  | .discard r => some (6, r)
  | .readCounters r => some (7, r)
  | .clearCounters r => some (8, r)
  | .clearExcursion r => some (9, r)
  | .testLine r => some (10, r)
  | .pliAccess r => some (11, r)
  | .restartHighway r => some (12, r)
  | .restartNode r => some (13, r)
  | .bypass r => some (14, r)
  | .leaveBypass r => some (15, r)
  | .badRequest k r => some (k, r)
  | _ => none

/-- The message in which the control centre sends a request to a node (13.4). -/
def requestMessage (node kind : Byte) (r : Request) : Message :=
  messageOfList
    ([1, node, kind, r.tag, r.flags, r.unit, upper r.first, lower r.first] ++ r.data.toList)

/-- The message of a management request; none for a command that no message carries. -/
def encodeRequest (node : Byte) (i : Instr) : Option Message :=
  i.request.map (fun x => requestMessage node x.1 x.2)

/-- The command a table word spells. No row of spec/opcode_table.json gives bits, so none. -/
def decodeTableWord (_nbits _w : Nat) : Option Instr := none

end Sys2Proof
end

