-- ==== Sys2Proof/Machine/Flags.lean ====
section
/-! DEFINITION. Every set of flags as data and as the code that carries it (13.3, 13.7), and the
computations that decide a flag: classification (R3), the polarity check (R12), the excursion flags
(R11) and the fault flags a status word gives (R22). -/

namespace Sys2Proof.Machine

/-! ### Codes (13.3) -/

/-- The code of a line state. -/
def LineState.code : LineState → Nat
  | .unknown => 0
  | .cut => 1
  | .onhook => 2
  | .offhook => 3
  | .short => 4

/-- The code of a call state. -/
def CallState.code : CallState → Nat
  | .idle => 0
  | .waiting => 1
  | .offered => 2
  | .alerting => 3
  | .connected => 4
  | .held => 5
  | .ringing => 6
  | .cleared => 7
  | .parked => 8

/-- The code of an identity outcome. -/
def IdOutcome.code : IdOutcome → Nat
  | .pending => 0
  | .verified => 1
  | .mismatch => 2
  | .malformed => 3
  | .absent => 4
  | .uncheckedBusy => 5
  | .notFitted => 6

/-- The code of a close reason. -/
def CloseReason.code : CloseReason → Nat
  | .callerCleared => 1
  | .operatorCleared => 2
  | .abandoned => 3
  | .noAnswer => 4
  | .recallCancelled => 5
  | .lineFault => 6
  | .equipmentFault => 7
  | .equipmentRestart => 8
  | .portDisabled => 9
  | .channelLost => 10
  | .refusedBusy => 11
  | .refusedDisabled => 12
  | .refusedLine => 13
  | .refusedChannel => 14

/-- The code of a protection state. -/
def ProtState.code : ProtState → Nat
  | .through => 0
  | .wrapA => 1
  | .wrapB => 2
  | .isolated => 3
  | .bypass => 4

/-- The code of a service input, absent written 0xFF (R174). -/
def serviceCode : Option RingInput → Nat
  | some .pin => 0
  | some .sin => 1
  | none => 0xFF

/-- A fault set as bits 6–0. -/
def FaultSet.code (f : FaultSet) : Nat :=
  bit01 f.cut + 2 * bit01 f.short + 4 * bit01 f.insulationLow + 8 * bit01 f.wiringReversed
    + 16 * bit01 f.pliAbsent + 32 * bit01 f.feedLimit + 64 * bit01 f.pliSupply

/-- The NODE flags as bits 2–0. -/
def NodeFlags.code (f : NodeFlags) : Nat :=
  bit01 f.restarted + 2 * bit01 f.numberConflict + 4 * bit01 f.bypassLeft

/-- The freeze causes as bits 3–0 (13.7). -/
def FreezeCauses.code (f : FreezeCauses) : Nat :=
  bit01 f.test + 2 * bit01 f.reversal + 4 * bit01 f.pli + 8 * bit01 f.highway

/-- The set of freeze causes is not empty. -/
def FreezeCauses.any (f : FreezeCauses) : Bool := f.test || f.reversal || f.pli || f.highway

/-- The location byte (13.3), before base class and identity outcome are added to it. -/
def Location.code (l : Location) : Nat :=
  (match l.carriageway with | .a => 0 | .b => 128)
    + (match l.kind with | .hardShoulder => 0 | .layBy => 32 | .slipRoad => 64 | .tunnel => 96)

/-! ### Call states -/

/-- The live states (3.1). -/
def CallState.live : CallState → Bool
  | .idle => false
  | .parked => false
  | _ => true

/-- The states in which the call's channel is attached (R48). -/
def CallState.attached : CallState → Bool
  | .offered => true
  | .alerting => true
  | .connected => true
  | .held => true
  | .ringing => true
  | _ => false

/-! ### Classification and debounce (R3, R4, R16) -/

/-- The off-hook limit: the base value, minus h while OFFHOOK, plus h while ONHOOK. -/
def offhookLimit (t : Thresholds) (settled : LineState) (ringing : Bool) : Int :=
  let base : Int := if ringing then t.ringtripMin else t.offhookMin
  match settled with
  | .offhook => base - t.h
  | .onhook => base + t.h
  | _ => base

/-- The short limit: short_min − h while SHORT. -/
def shortLimit (t : Thresholds) (settled : LineState) : Int :=
  if settled = .short then (t.shortMin : Int) - t.h else t.shortMin

/-- The candidate class of a filtered current (R3). -/
def classify (t : Thresholds) (settled : LineState) (ringing : Bool) (f : Int) : LineState :=
  let m : Int := f.natAbs
  if shortLimit t settled ≤ m then .short
  else if m < t.cutMax then .cut
  else if offhookLimit t settled ringing ≤ m then .offhook
  else .onhook

/-- The debounce value of a candidate; 0 is used as 1 (R4). -/
def debounceValue (t : Thresholds) (ringing : Bool) (c : LineState) : Nat :=
  match c with
  | .cut => atLeastOne t.debCut
  | .onhook => atLeastOne t.debOnhook
  | .short => atLeastOne t.debShort
  | .offhook => atLeastOne (if ringing then t.debRingtrip else t.debOffhook)
  | .unknown => 1

/-! ### Polarity (R12) -/

/-- F has the sign expected under the drive mode. -/
def expectedSign (d : DriveMode) (f : Int) : Bool :=
  match d with
  | .reversed => decide (f < 0)
  | _ => decide (0 < f)

/-- F has the sign opposite to the one expected. -/
def oppositeSign (d : DriveMode) (f : Int) : Bool :=
  match d with
  | .reversed => decide (0 < f)
  | _ => decide (f < 0)

/-- The polarity count after the check of one boundary; it stops at 25, where WIRING-REVERSED changes. -/
def polarityCount (reversed : Bool) (d : DriveMode) (f : Int) (count : Nat) : Nat :=
  if (if reversed then expectedSign d f else oppositeSign d f) then capSucc Config.polarityBoundaries count
  else 0

/-- The check applies: settled OFFHOOK under NORMAL or REVERSED drive. -/
def polarityChecked (settled : LineState) (d : DriveMode) : Bool :=
  decide (settled = .offhook) && decide (d = .normal ∨ d = .reversed)

/-! ### Excursions (R11) -/

/-- EXC-HIGH is set by a measurement of at least short_min. -/
def excursionHigh (t : Thresholds) (m : Int) : Bool := decide (t.shortMin ≤ m.natAbs)

/-- EXC-LOW is set by a measurement below cut_max on an OFFHOOK line. -/
def excursionLow (t : Thresholds) (settled : LineState) (m : Int) : Bool :=
  decide (m.natAbs < t.cutMax) && decide (settled = .offhook)

/-! ### Fault flags -/

/-- CUT and SHORT follow the settled state; WIRING-REVERSED is cleared when OFFHOOK is left (R22). -/
def FaultSet.settle (f : FaultSet) (old new : LineState) : FaultSet :=
  { f with
    cut := decide (new = .cut), short := decide (new = .short),
    wiringReversed := f.wiringReversed && !(decide (old = .offhook) && decide (new ≠ .offhook)) }

/-- FEED-LIMIT of a line and PLI-SUPPLY from a status word (R22). -/
def FaultSet.status (f : FaultSet) (w : StatusWord) (l : Fin 4) : FaultSet :=
  { f with feedLimit := w.feed.getLsbD l.val, pliSupply := w.supply }

/-- The flags a PLI loss clears and sets (R9). -/
def FaultSet.pliLost (f : FaultSet) : FaultSet :=
  { insulationLow := f.insulationLow, pliAbsent := true }

/-- The flags a PLI's return clears, with those its first status word gives (R9, R151). -/
def FaultSet.pliBack (f : FaultSet) (w : StatusWord) (l : Fin 4) : FaultSet :=
  { f with pliAbsent := false, feedLimit := w.feed.getLsbD l.val, pliSupply := w.supply }

/-- The flags a highway restart clears (R23). -/
def FaultSet.restart (f : FaultSet) : FaultSet :=
  { f with cut := false, short := false, wiringReversed := false }

end Sys2Proof.Machine
end

