-- ==== Sys2Proof/Machine/Ops.lean ====
section
/-! DEFINITION. The named operations over the state that every block's steps are built from: changing one
port, channel, decoder or counter; the report list; the fault sets; freezing; the drive mode; the end of an
insulation test; a release request. -/

namespace Sys2Proof.Machine

/-- What a command answers. -/
abbrev Answer := Host.Outcome State Fault Refusal

/-! ### One thing of many -/

/-- The line of port `p`. -/
def State.line (s : State) (p : PortNo) : PortLine := s.lsv.lines[p]
/-- The call record of port `p`. -/
def State.record (s : State) (p : PortNo) : CallRecord := s.ccl.records[p]
/-- The channel map entry of channel `c`. -/
def State.chan (s : State) (c : ChanNo) : ChanEntry := s.cha.map[c]
/-- VCN's items for channel `c`. -/
def State.voice (s : State) (c : ChanNo) : VoiceChannel := s.vcn.channels[c]
/-- The cadence state of port `p`. -/
def State.cadence (s : State) (p : PortNo) : Cadence := s.tgn.ports[p]
/-- Decoder `d`. -/
def State.decoder (s : State) (d : DecNo) : Decoder := s.idd.decoders[d]
/-- PLI position `i`. -/
def State.pli (s : State) (i : PliNo) : Pli := s.hwc.plis[i]
/-- RIF's items for an input. -/
def State.input (s : State) : RingInput → InputPort
  | .pin => s.rif.pinPort
  | .sin => s.rif.sinPort
/-- PRC's items for an input. -/
def State.health (s : State) : RingInput → InputHealth
  | .pin => s.prc.pinHealth
  | .sin => s.prc.sinHealth
/-- A counter's count. -/
def State.count (s : State) (c : Counter) : Nat := s.counters[c.wordNo]
/-- The section table in force. -/
def State.sect (s : State) : Sect := s.tbs.active.sect
/-- The active post entry of port `p`. -/
def State.post (s : State) (p : PortNo) : PostEntry := s.tbs.active.post p

/-- Change the line of port `p`. -/
def State.modLine (s : State) (p : PortNo) (f : PortLine → PortLine) : State :=
  { s with lsv := { s.lsv with lines := vmod s.lsv.lines p f } }
/-- Change the call record of port `p`. -/
def State.modRecord (s : State) (p : PortNo) (f : CallRecord → CallRecord) : State :=
  { s with ccl := { s.ccl with records := vmod s.ccl.records p f } }
/-- Change the channel map entry of channel `c`. -/
def State.modChan (s : State) (c : ChanNo) (f : ChanEntry → ChanEntry) : State :=
  { s with cha := { s.cha with map := vmod s.cha.map c f } }
/-- Change VCN's items for channel `c`. -/
def State.modVoice (s : State) (c : ChanNo) (f : VoiceChannel → VoiceChannel) : State :=
  { s with vcn := { s.vcn with channels := vmod s.vcn.channels c f } }
/-- Set the current uplink sample of port `p`. -/
def State.setUplink (s : State) (p : PortNo) (x : Int) : State :=
  { s with vcn := { s.vcn with uplink := vmod s.vcn.uplink p (fun _ => x) } }
/-- Change the cadence state of port `p`. -/
def State.modCadence (s : State) (p : PortNo) (f : Cadence → Cadence) : State :=
  { s with tgn := { s.tgn with ports := vmod s.tgn.ports p f } }
/-- Change decoder `d`. -/
def State.modDecoder (s : State) (d : DecNo) (f : Decoder → Decoder) : State :=
  { s with idd := { s.idd with decoders := vmod s.idd.decoders d f } }
/-- Change PLI position `i`. -/
def State.modPli (s : State) (i : PliNo) (f : Pli → Pli) : State :=
  { s with hwc := { s.hwc with plis := vmod s.hwc.plis i f } }
/-- Change RIF's items for an input. -/
def State.modInput (s : State) (i : RingInput) (f : InputPort → InputPort) : State :=
  match i with
  | .pin => { s with rif := { s.rif with pinPort := f s.rif.pinPort } }
  | .sin => { s with rif := { s.rif with sinPort := f s.rif.sinPort } }
/-- Change PRC's items for an input. -/
def State.modHealth (s : State) (i : RingInput) (f : InputHealth → InputHealth) : State :=
  match i with
  | .pin => { s with prc := { s.prc with pinHealth := f s.prc.pinHealth } }
  | .sin => { s with prc := { s.prc with sinHealth := f s.prc.sinHealth } }
/-- Raise a counter by 1; it stops at 65535 (Introduction 5). -/
def State.bump (s : State) (c : Counter) : State :=
  { s with counters := vmod s.counters c.wordNo satSucc }

/-- One step for each port of a list, in its order. -/
def forPorts (l : List PortNo) (f : PortNo → State → State) (s : State) : State :=
  l.foldl (fun s p => f p s) s

/-- One step for each channel of a list, in its order. -/
def forChans (l : List ChanNo) (f : ChanNo → State → State) (s : State) : State :=
  l.foldl (fun s c => f c s) s

/-- The node is in BYPASS. -/
def State.inBypass (s : State) : Bool := decide (s.prc.state = .bypass)

/-! ### Supervision (R1, R7) -/

/-- The port's supervision mode (1.1). -/
inductive Supervision where
  | normal | frozen | disabled
  deriving DecidableEq, Repr

/-- A port is DISABLED, FROZEN or NORMAL (R1). -/
def State.supervision (s : State) (p : PortNo) : Supervision :=
  if !(s.post p).enabled then .disabled
  else if (s.line p).causes.any then .frozen
  else .normal

/-- The port's entry in use: the latched entry while the record is not IDLE (R1). -/
def State.entryInUse (s : State) (p : PortNo) : Latched :=
  if (s.record p).state = .idle then (s.post p).latched
  else (s.record p).latched.getD (s.post p).latched

/-- The threshold set the port uses: named by its line type, its values from the active bank (1.1). -/
def State.thresholds (s : State) (p : PortNo) : Thresholds :=
  s.tbs.active.thresholds (s.entryInUse p).lineType

/-- The port's call record is RINGING (R16). -/
def State.isRinging (s : State) (p : PortNo) : Bool := decide ((s.record p).state = .ringing)

/-- Change a port's freeze causes. When the last one goes, the debounce count becomes 0 and the counting
candidate absent (R7). -/
def PortLine.setCauses (l : PortLine) (c : FreezeCauses) : PortLine :=
  if l.causes.any && !c.any then { l with causes := c, debounce := 0, candidate := none, settleDue := false }
  else { l with causes := c }

/-! ### The report list (R86 to R88) -/

/-- CALL and CLOSE entries form the first tier. -/
def isFirstTier : EntryKey → Bool
  | .call _ => true
  | .close _ => true
  | .fault _ => false
  | .node => false

/-- An entry at the tail of its tier (R86). -/
def placeTail (l : List ReportEntry) (e : ReportEntry) : List ReportEntry :=
  if isFirstTier e.key then
    l.takeWhile (fun x => isFirstTier x.key) ++ e :: l.dropWhile (fun x => isFirstTier x.key)
  else l ++ [e]

/-- The entry of a key, if it stands in the list. -/
def entryOf (l : List ReportEntry) (k : EntryKey) : Option ReportEntry := l.find? (fun e => e.key = k)

/-- A list without the entry of a key (R88). -/
def dropEntry (l : List ReportEntry) (k : EntryKey) : List ReportEntry := l.filter (fun e => !(e.key = k))

/-- What a listing does to the report list (R87). -/
def listIn (l : List ReportEntry) (k : EntryKey) : List ReportEntry :=
  match entryOf l k with
  | none => placeTail l { key := k }
  | some e =>
    match e.status with
    | .listed => l.map (fun x => if x.key = k then { x with echo := none } else x)
    | .sent => placeTail (dropEntry l k) { key := k }

/-- An owner lists an entry (R87). In BYPASS listings are not taken (R98). -/
def State.listEntry (s : State) (k : EntryKey) : State :=
  if s.inBypass then s else { s with sgu := { s.sgu with reports := listIn s.sgu.reports k } }

/-- An owner has an entry removed (R88). -/
def State.unlistEntry (s : State) (k : EntryKey) : State :=
  { s with sgu := { s.sgu with reports := dropEntry s.sgu.reports k } }

/-- A NODE flag that was clear is set and lists the NODE entry; none is set in BYPASS (R97, R98). -/
def State.setNodeFlag (s : State) (isSet : NodeFlags → Bool) (set : NodeFlags → NodeFlags) : State :=
  if s.inBypass || isSet s.sgu.flags then s
  else { s with sgu := { s.sgu with flags := set s.sgu.flags } }.listEntry .node

/-! ### Fault sets (R22) -/

/-- Change the fault set of an enabled port; a change is handed to SGU, which lists the FAULT entry. A
disabled port's set is empty and stays so (R22). -/
def State.modFaults (s : State) (p : PortNo) (f : FaultSet → FaultSet) : State :=
  if (s.post p).enabled then
    if f (s.line p).faults = (s.line p).faults then s
    else (s.modLine p (fun l => { l with faults := f l.faults })).listEntry (.fault p)
  else s

/-! ### Drive modes (R13, R8) -/

/-- The drive mode of a line: the first of R13's cases that applies. -/
def State.driveFor (s : State) (p : PortNo) : DriveMode :=
  if !(s.post p).enabled then .normal
  else if s.lsv.testPort = some p ∧ s.lsv.testPhase = .discharge then .discharge
  else if s.lsv.testPort = some p ∧ s.lsv.testPhase = .charge then .charge
  else if (s.record p).state = .ringing ∧ (s.cadence p).role = .ring ∧ (s.cadence p).phase = .on ∧
      (s.line p).brake = false then .ring
  else if (s.record p).state = .connected ∨ (s.record p).state = .held then .reversed
  else .normal

/-- A drive mode taken up; a change into or out of REVERSED is a polarity change (R8). -/
def PortLine.takeDrive (l : PortLine) (d : DriveMode) : PortLine :=
  if decide (l.drive = .reversed) = decide (d = .reversed) then { l with drive := d }
  else
    { l with
      drive := d, reversal := Config.reversalBoundaries, causes := { l.causes with reversal := true },
      polarity := 0 }

/-- LSV chooses the drive mode of a line again (R13). -/
def State.redrive (s : State) (p : PortNo) : State :=
  let d := s.driveFor p
  s.modLine p (fun l => l.takeDrive d)

/-! ### The insulation test's end (R19 to R21) -/

/-- The counter an outcome raises. -/
def TestOutcome.counter : TestOutcome → Counter
  | .pass => .testsPassed
  | .low => .testsLow
  | .abortedUse => .testsAborted
  | .aborted => .testsAborted

/-- Every ending of the running test: the phase NONE, the port absent, the TEST cause removed, the last
test recorded, its counter raised and the drive chosen again (R20, R21). -/
def State.endTest (s : State) (o : TestOutcome) : State :=
  match s.lsv.testPort with
  | none => s
  | some p =>
    let s := { s with lsv := { s.lsv with testPhase := .idle, testPort := none, lastTest := some (p, o) } }
    let s := s.modLine p (fun l => l.setCauses { l.causes with test := false })
    (s.bump o.counter).redrive p

/-- A test running on port `p` ends ABORTED (R21). -/
def State.abortTestOn (s : State) (p : PortNo) : State :=
  if s.lsv.testPort = some p then s.endTest .aborted else s

/-! ### Channels -/

/-- A release request of port `p` for channel `c` (R74). -/
def State.releaseRequest (s : State) (p : PortNo) (c : ChanNo) : State :=
  if (s.chan c).state = .bound ∧ (s.chan c).port = some p then
    s.modChan c (fun _ =>
      { state := .releasing, port := none, timer := atLeastOne s.sect.releaseTimeout, mismatch := 0 })
  else s

/-- The switchover hold runs (9.2). -/
def State.holding (s : State) : Bool := decide (0 < s.prc.hold)

/-- CLAIMED and BOUND entries (R67, R71). -/
def State.heldChannels (s : State) : Nat :=
  s.cha.map.toList.countP (fun e => decide (e.state = .claimed ∨ e.state = .bound))

end Sys2Proof.Machine
end

