-- ==== Sys2Proof/Machine/Identity.lean ====
section
/-! DEFINITION. The Identity Decoders (chapter 2): the pool with its wait list, and what one decoder makes
of one fast-hook bit. -/

namespace Sys2Proof.Machine

/-! ### The pool (R25 to R28, R36) -/

/-- A decoder as it is attached to a port (R28). DESIGN CHOICE (log entry 16): its phase is MAKE. -/
def Decoder.attached (p : PortNo) : Decoder := { state := .hunt, port := some p }

/-- The decoder attached to port `p`, if any. -/
def State.decoderOf (s : State) (p : PortNo) : Option DecNo :=
  allDecoders.find? (fun d => (s.decoder d).port = some p)

/-- The lowest-numbered FREE decoder, if any. -/
def State.freeDecoder (s : State) : Option DecNo :=
  allDecoders.find? (fun d => (s.decoder d).state = .free)

/-- A port that stands in the decoder wait list. -/
def State.awaitsDecoder (s : State) (p : PortNo) : Bool := s.idd.waiting.any (fun w => w.port = p)

/-- A decoder that becomes FREE goes at once to the head of the wait list, or stays FREE (R27, R36). DESIGN CHOICE (log
entry 16): its phase is MAKE in either case. -/
def State.handOn (s : State) (d : DecNo) : State :=
  match s.idd.waiting with
  | [] => s.modDecoder d (fun _ => {})
  | w :: rest =>
    { s with idd := { s.idd with waiting := rest } }.modDecoder d (fun _ => Decoder.attached w.port)

/-- Port `p` leaves the decoder wait list; those behind it keep their order (R36). -/
def State.leaveDecoderWait (s : State) (p : PortNo) : State :=
  { s with idd := { s.idd with waiting := s.idd.waiting.filter (fun w => !(w.port = p)) } }

/-- The port's decoder is released and its place in the wait list given up, without an outcome (R36). -/
def State.releaseIdentity (s : State) (p : PortNo) : State :=
  let s := s.leaveDecoderWait p
  match s.decoderOf p with
  | some d => s.handOn d
  | none => s

/-- All decoders FREE and the wait list empty, no outcome given (R38). -/
def State.freeIdentity (s : State) : State :=
  { s with idd := { decoders := Vector.replicate 4 {}, waiting := [] } }

/-- A request to identify port `p`, whose latched entry has identity-fitted as given, and the outcome it
answers (R25). A port that already holds a decoder or a place changes nothing. -/
def State.requestIdentity (s : State) (p : PortNo) (fitted : Bool) : IdOutcome × State :=
  if fitted then
    if (s.decoderOf p).isSome || s.awaitsDecoder p then (.pending, s)
    else
      match s.freeDecoder with
      | some d => (.pending, s.modDecoder d (fun _ => Decoder.attached p))
      | none =>
        (.pending, { s with idd := { s.idd with waiting := s.idd.waiting ++ [{ port := p, count := 0 }] } })
  else (.notFitted, s.bump .idNotFitted)

/-! ### One decoder and one bit (R29 to R33) -/

/-- What a bit brought a decoder to. -/
inductive BurstEvent where
  | quiet | failed | complete
  deriving DecidableEq, Repr

/-- Back to HUNT, with nothing of a burst held (R29, R33). The run in progress is not timed. -/
def Decoder.rehunt (d : Decoder) : Decoder := { d with state := .hunt, run := 0, index := 0, bits := [] }

/-- A length lies within a window, both ends included (R29). -/
def within (lo hi n : Nat) : Bool := decide (lo ≤ n) && decide (n ≤ hi)

/-- The bit that a break of a given length stands for; a length in both windows is a 0 (R32). -/
def Sect.breakBit (t : Sect) (n : Nat) : Option Bool :=
  if within t.idZeroMin t.idZeroMax n then some false
  else if within t.idOneMin t.idOneMax n then some true
  else none

/-- The run in progress is too long for the decoder's state (R31, R32). -/
def Decoder.tooLong (t : Sect) (d : Decoder) : Bool :=
  match d.state, d.phase with
  | .bits, .make => decide (t.idMakeMax < d.run)
  | .bits, .brk => decide (max t.idZeroMax t.idOneMax < d.run)
  | _, _ => false

/-- A bit equal to the previous one: the run goes on (R29). -/
def Decoder.runOn (t : Sect) (d : Decoder) : Decoder × BurstEvent :=
  match d.state with
  | .start => ({ d with run := satSucc d.run }, .quiet)
  | .bits =>
    let d := { d with run := satSucc d.run }
    if d.tooLong t then (d.rehunt, .failed) else (d, .quiet)
  | .free => (d, .quiet)
  | .hunt => (d, .quiet)

/-- A bit that differs from the previous one: the run timed has ended (R30 to R32). `d` holds the new bit as
its previous bit and the ended run's length as its run length. -/
def Decoder.runEnd (t : Sect) (bit : Loop) (d : Decoder) : Decoder × BurstEvent :=
  match d.state with
  | .free => (d, .quiet)
  | .hunt =>
    match bit with
    | .broken => ({ d with state := .start, run := 1 }, .quiet)
    | .made => (d, .quiet)
  | .start =>
    if within t.idStartMin t.idStartMax d.run then
      ({ d with state := .bits, phase := .make, index := 0, bits := [], run := 1, startSeen := true }, .quiet)
    else (d.rehunt, .quiet)
  | .bits =>
    match d.phase with
    | .make =>
      if within t.idMakeMin t.idMakeMax d.run then ({ d with phase := .brk, run := 1 }, .quiet)
      else (d.rehunt, .failed)
    | .brk =>
      match t.breakBit d.run with
      | none => (d.rehunt, .failed)
      | some b =>
        let d := { d with bits := d.bits ++ [b], index := d.index + 1 }
        if d.index < 16 then ({ d with phase := .make, run := 1 }, .quiet) else (d, .complete)

/-- A decoder takes the fast-hook bit of its port's line (R29). -/
def Decoder.take (t : Sect) (bit : Loop) (d : Decoder) : Decoder × BurstEvent :=
  match d.previous with
  | none => ({ d with previous := some bit }, .quiet)
  | some prev =>
    if prev = bit then d.runOn t else Decoder.runEnd t bit { d with previous := some bit }

/-- The PLI of the decoder's port became not ready (R29). -/
def Decoder.pliLost (d : Decoder) : Decoder := { d.rehunt with previous := none }

/-- Bits, most significant first, as a number. -/
def bitsToNat (l : List Bool) : Nat := l.foldl (fun n b => 2 * n + bit01 b) 0

/-- The post code of a complete burst: its first twelve bits (R35). -/
def burstCode (bits : List Bool) : Nat := bitsToNat (bits.take 12)

/-- The check of a post code: the sum of its three four-bit groups modulo 16 (2.1). -/
def codeCheck (code : Nat) : Nat := (code / 256 % 16 + code / 16 % 16 + code % 16) % 16

/-- The check of a complete burst is right (R35). -/
def burstChecks (bits : List Bool) : Bool := bitsToNat ((bits.drop 12).take 4) == codeCheck (burstCode bits)

end Sys2Proof.Machine
end

