-- ==== Sys2Proof/Machine/Tones.lean ====
section
/-! DEFINITION. The Tone Generator (chapter 6): which cadence a call state plays, the moves of a cadence,
and the tone samples. -/

namespace Sys2Proof.Machine

/-- The role of a call state (R100). -/
def roleOf : CallState → CadenceRole
  | .waiting => .queue
  | .offered => .ringback
  | .alerting => .ringback
  | .held => .hold
  | .cleared => .clear
  | .ringing => .ring
  | .idle => .none
  | .connected => .none
  | .parked => .none

/-- The cadence number that a role's selection field names (R100). -/
def Sect.selection (t : Sect) : CadenceRole → Nat
  | .queue => t.selQueue
  | .ringback => t.selRingback
  | .hold => t.selHold
  | .clear => t.selClear
  | .ring => t.selRing
  | .none => 0

/-- The steps that are played: those before the first step (0, 0) (R99). -/
def CadenceCopy.played (c : CadenceCopy) : List CadenceStep :=
  c.steps.takeWhile (fun st => decide (0 < st.on ∨ 0 < st.off))

/-- What a move of a cadence brings about beside its new state (R103, R105). -/
inductive CadenceEvent where
  | quiet | onStep | exhausted
  deriving DecidableEq, Repr

/-- A step entered: its on phase, or its off phase where the on duration is 0 (R101). The start of an on
step sets both accumulators to 0. -/
def Cadence.enterStep (c : Cadence) (idx : Nat) (st : CadenceStep) : Cadence × CadenceEvent :=
  if 0 < st.on then
    ({ c with step := idx, phase := .on, remaining := st.on, acc1 := 0, acc2 := 0 }, .onStep)
  else ({ c with step := idx, phase := .off, remaining := st.off }, .quiet)

/-- A cadence that has run out, its step index one past its last step (R101, R103). DESIGN CHOICE (log entry 31):
after a list of four steps the index stays at 3, the greatest value that 6.2 and the port status view hold. -/
def Cadence.exhaust (c : Cadence) : Cadence :=
  { c with step := min 3 c.step, phase := .exhausted, remaining := 0, repeatsLeft := 0, acc1 := 0, acc2 := 0 }

/-- Step 0 of the latched copy entered. A copy with no step is never latched (R99); it counts here as run
out. -/
def Cadence.begin (c : Cadence) (copy : CadenceCopy) : Cadence × CadenceEvent :=
  match copy.played with
  | [] => (c.exhaust, .exhausted)
  | st :: _ => Cadence.enterStep c 0 st

/-- The end of a pass (R103), `now` being the entry the role's selection field names in the active bank. -/
def Cadence.passEnd (c : Cadence) (copy now : CadenceCopy) : Cadence × CadenceEvent :=
  let left := if copy.repeats = 0 then c.repeatsLeft else c.repeatsLeft - 1
  if copy.repeats ≠ 0 ∧ left = 0 then (c.exhaust, .exhausted)
  else if now = copy then Cadence.begin { c with repeatsLeft := left } copy
  else Cadence.begin { c with copy := some now, repeatsLeft := now.repeats } now

/-- The next step of the list, or the end of the pass (R101). -/
def Cadence.nextStep (c : Cadence) (copy now : CadenceCopy) : Cadence × CadenceEvent :=
  match copy.played[c.step + 1]? with
  | some st => Cadence.enterStep c (c.step + 1) st
  | none => Cadence.passEnd { c with step := c.step + 1 } copy now

/-- The end of the phase being played (R101). -/
def Cadence.phaseEnd (c : Cadence) (now : CadenceCopy) : Cadence × CadenceEvent :=
  match c.copy with
  | none => (c, .quiet)
  | some copy =>
    match c.phase with
    | .on =>
      match copy.played[c.step]? with
      | some st =>
        if 0 < st.off then ({ c with phase := .off, remaining := st.off }, .quiet)
        else Cadence.nextStep c copy now
      | none => Cadence.nextStep c copy now
    | .off => Cadence.nextStep c copy now
    | .none => (c, .quiet)
    | .exhausted => (c, .quiet)

/-- A cadence started afresh for a role, or ended for the role NONE (R100). DESIGN CHOICE (log entry 31): the
accumulators start at 0 also where step 0 has no on phase, for which no rule gives them a value. -/
def Cadence.start (role : CadenceRole) (entry : CadenceCopy) : Cadence :=
  if role = .none then {}
  else
    (Cadence.begin
      { role := role, copy := some entry, step := 0, phase := .none, remaining := 0,
        repeatsLeft := entry.repeats, acc1 := 0, acc2 := 0 } entry).1

/-- TGN derives a port's role again; a role that changed starts its cadence (R100). -/
def State.followRole (s : State) (p : PortNo) : State :=
  let role := roleOf (s.record p).state
  if (s.cadence p).role = role then s
  else s.modCadence p (fun _ => Cadence.start role (s.tbs.active.cadence (s.sect.selection role)))

/-! ### Tone synthesis (R106, R107) -/

/-- round(32767 × sin(2πi/256)) for i from 0 to 64 (R107). -/
def quarterSine : List Nat :=
  [0, 804, 1608, 2410, 3212, 4011, 4808, 5602, 6393, 7179, 7962, 8739, 9512,
   10278, 11039, 11793, 12539, 13279, 14010, 14732, 15446, 16151, 16846, 17530, 18204, 18868,
   19519, 20159, 20787, 21403, 22005, 22594, 23170, 23731, 24279, 24811, 25329, 25832, 26319,
   26790, 27245, 27683, 28105, 28510, 28898, 29268, 29621, 29956, 30273, 30571, 30852, 31113,
   31356, 31580, 31785, 31971, 32137, 32285, 32412, 32521, 32609, 32678, 32728, 32757, 32767]

/-- The sine value of table index `i`, 0 to 255 (R107). -/
def sineValue (i : Nat) : Int :=
  if i < 64 then quarterSine.getD i 0
  else if i < 128 then quarterSine.getD (128 - i) 0
  else if i < 192 then -(quarterSine.getD (i - 128) 0 : Int)
  else -(quarterSine.getD (256 - i) 0 : Int)

/-- The phase step of a frequency: f × 65536 / 8000 to the nearest, halves up; above 3999 used as 3999
(R106). -/
def phaseStep (f : Nat) : Nat := (min f 3999 * 65536 + 4000) / 8000

/-- The component of one frequency (R107). -/
def toneComponent (f level : Nat) (acc : BitVec 16) : Int :=
  if f = 0 then 0 else ((level : Int) * sineValue (acc.toNat / 256)).tdiv 32768

/-- The sample of a tone entry at two accumulators (R107). -/
def toneSum (t : ToneEntry) (acc1 acc2 : BitVec 16) : Int :=
  clampInt (-8191) 8191 (toneComponent t.f1 t.level acc1 + toneComponent t.f2 t.level acc2)

/-- A cadence sounds: a role other than RING and NONE, in an on phase (R106). -/
def Cadence.sounds (c : Cadence) : Bool :=
  decide (c.phase = .on) && decide (c.role ≠ .none) && decide (c.role ≠ .ring)

/-- The tone a cadence plays: the entry of the tables that its latched tone id names (R104, R106). -/
def Cadence.tone (b : Bank) (c : Cadence) : ToneEntry := b.tone ((c.copy.map CadenceCopy.tone).getD 0)

/-- The tone sample a cadence forms from the tables; 0 where no tone sounds (R106). -/
def Cadence.sample (b : Bank) (c : Cadence) : Int :=
  if c.sounds then toneSum (c.tone b) c.acc1 c.acc2 else 0

/-- The tone sample of port `p` for this frame, from the active tables (R104, R106). -/
def State.toneSample (s : State) (p : PortNo) : Int := (s.cadence p).sample s.tbs.active

/-- An accumulator after one frame (R106). -/
def accStep (f : Nat) (acc : BitVec 16) : BitVec 16 :=
  if f = 0 then acc else acc + BitVec.ofNat 16 (phaseStep f)

/-- A cadence after one frame: the accumulators have moved by the steps of its tone (R106). -/
def Cadence.advance (b : Bank) (c : Cadence) : Cadence :=
  if c.sounds then { c with acc1 := accStep (c.tone b).f1 c.acc1, acc2 := accStep (c.tone b).f2 c.acc2 } else c

/-- A cadence at a boundary (R102). -/
def Cadence.boundary (c : Cadence) : Cadence :=
  match c.phase with
  | .on => { c with remaining := c.remaining - 1 }
  | .off => { c with remaining := c.remaining - 1 }
  | .none => c
  | .exhausted => c

/-! ### A switch of the tables (R104) -/

/-- A cadence that stands where the frame that begins a superframe and its boundary have brought `was` by the
tables `old` moves its accumulators by the tables `new` in place of them; one that has moved on since stays. -/
def Cadence.readvanced (old new : Bank) (was c : Cadence) : Cadence :=
  if c = (was.advance old).boundary then (was.advance new).boundary else c

/-- A frame whose samples were formed in RUNNING has its tone samples formed afresh from the tables `b`. -/
def Downlink.retoned (b : Bank) (formed : Vector Cadence 32) (d : Downlink) : Downlink :=
  if d.live then
    { d with voice := Vector.ofFn fun p => if formed[p].sounds then formed[p].sample b else d.voice[p] }
  else d

/-- The switch reaches the highway frame that its boundary begins, the first after it: its tones are those of the
tables now active, `old` being those before (R104, R160). DESIGN CHOICE (log entry 37): that frame is composed in
NODE_FRAME_TIME, before the steps of its boundary, and BANK_SWITCH forms its tones afresh. -/
def State.retone (old : Bank) (s : State) : State :=
  if s.rif.clock.number = 0 ∧ s.rif.clock.boundaryDue = false then
    { s with
      hwc := { s.hwc with downlink := s.hwc.downlink.map (Downlink.retoned s.tbs.active s.tgn.formed) },
      tgn := { s.tgn with
        ports := Vector.ofFn fun p => Cadence.readvanced old s.tbs.active s.tgn.formed[p] s.tgn.ports[p] } }
  else s

end Sys2Proof.Machine
end

