-- ==== Sys2Proof/Machine/Calls.lean ====
section
/-! DEFINITION. The Call Controller (chapter 3): the one operation that changes a call record with all that
follows it, references, the wait queue, the closing list, the line events, the call commands, and the
identity outcomes that reach a record (R33 to R37). -/

namespace Sys2Proof.Machine

/-! ### Changing a record (R40, R42) -/

/-- Two contents of a record differ in something a STATE report shows (R42). -/
def CallRecord.reportDiffers (old new : CallRecord) : Bool :=
  decide (old.state ≠ new.state) || decide (old.effClass ≠ new.effClass) || decide (old.reest ≠ new.reest) ||
    decide (old.channel ≠ new.channel) || decide (old.identity ≠ new.identity) ||
    decide (old.code ≠ new.code) || decide (old.matched ≠ new.matched)

/-- States whose entry frees the port's decoder and its place in the decoder wait list (R36). -/
def CallState.endsIdentity : CallState → Bool
  | .idle => true
  | .cleared => true
  | .parked => true
  | _ => false

/-- States whose entry removes the CALL entry (R42). -/
def CallState.unlists : CallState → Bool
  | .idle => true
  | .parked => true
  | _ => false

/-- What the other blocks do when a record's state has changed from `old` (R13, R15, R36, R100). -/
def State.stateChanged (s : State) (p : PortNo) (old : CallState) : State :=
  let s := if old = .ringing then s.modLine p (fun l => { l with brake := false }) else s
  let s := (s.followRole p).redrive p
  if (s.record p).state.endsIdentity then s.releaseIdentity p else s

/-- The CALL entry after a change of the record from `old` (R42). -/
def State.reportChange (s : State) (p : PortNo) (old : CallRecord) : State :=
  let r := s.record p
  if r.state.unlists && decide (r.state ≠ old.state) then s.unlistEntry (.call p)
  else if r.announced && old.reportDiffers r then s.listEntry (.call p)
  else s

/-- CCL gives a record new contents. A change of state sets the time in state to 0 (R40); a channel that
ceases to be attached leaves an uplink sample of 0 (R112); TGN, LSV, IDD and SGU follow. -/
def State.setRecord (s : State) (p : PortNo) (new : CallRecord) : State :=
  let old := s.record p
  if new.state = old.state then
    (s.modRecord p (fun _ => new)).reportChange p old
  else
    let s := s.modRecord p (fun _ => { new with time := 0 })
    let s := if old.channel.isSome && new.channel.isNone then s.setUplink p 0 else s
    (s.stateChanged p old.state).reportChange p old

/-! ### References (R39) -/

/-- The next reference of the cycle 1 to 255. -/
def nextRef (r : Nat) : Nat := if r < 255 then r + 1 else 1

/-- A reference held by a record not IDLE or by a closing entry. -/
def State.refTaken (s : State) (r : Nat) : Bool :=
  allPorts.any (fun p => decide ((s.record p).state ≠ .idle) && decide ((s.record p).ref = some r)) ||
    s.ccl.closing.any (fun e => decide (e.ref = some r))

/-- The first reference from `r` on that is not taken, within a number of steps. -/
def State.findRef (s : State) : Nat → Nat → Nat
  | 0, r => r
  | k + 1, r => if s.refTaken r then s.findRef k (nextRef r) else r

/-- The reference CCL gives next (R39). -/
def State.newRef (s : State) : Nat := s.findRef 255 (nextRef s.ccl.refCounter)

/-- The reference counter holds the reference given. -/
def State.setRefCounter (s : State) (r : Nat) : State := { s with ccl := { s.ccl with refCounter := r } }

/-! ### The wait queue (R45) -/

/-- A port's effective class as a number. -/
def State.classOf (s : State) (p : PortNo) : Nat := ((s.record p).effClass.map Fin.val).getD 0

/-- A port placed immediately after the last entry that `le` holds of, or at the head (R45). -/
def placeAfter (le : PortNo → Bool) (p : PortNo) : List PortNo → List PortNo
  | [] => [p]
  | q :: rest => if (q :: rest).any le then q :: placeAfter le p rest else p :: q :: rest

/-- Port `p` leaves the wait queue. -/
def State.leaveQueue (s : State) (p : PortNo) : State :=
  { s with ccl := { s.ccl with queue := s.ccl.queue.filter (fun q => !(q = p)) } }

/-- Port `p` is placed in the wait queue by its class (R45, first placement). -/
def State.placeByClass (s : State) (p : PortNo) : State :=
  { s with
    ccl := { s.ccl with
      queue := placeAfter (fun q => decide (s.classOf q ≤ s.classOf p)) p s.ccl.queue } }

/-! ### Binding (R48, R72, R110) -/

/-- VCN's items as a binding sets them (R110). -/
def State.bindVoice (s : State) (c : ChanNo) : State :=
  s.modVoice c (fun _ => { gain := s.sect.aInit })

/-- Channel `c`, BOUND, is attached to port `p` with its timer 0 (R72). -/
def State.attach (s : State) (c : ChanNo) (p : PortNo) : State :=
  (s.modChan c (fun e => { e with port := some p, timer := 0 })).bindVoice c

/-- CCL is told that channel `c` is bound to waiting port `p`, which is offered (R48). -/
def State.offer (s : State) (c : ChanNo) (p : PortNo) : State :=
  let s := s.leaveQueue p
  s.setRecord p
    { s.record p with state := .offered, channel := some c, lastChannel := some c, announced := true }

/-- The lowest-numbered unattached BOUND entry, if any. -/
def State.unattached (s : State) : Option ChanNo :=
  allChans.find? (fun c => (s.chan c).state = .bound ∧ (s.chan c).port = none)

/-- While a call waits and an unattached entry exists, the lowest is attached to the head (R72). -/
def State.attachLoop : Nat → State → State
  | 0, s => s
  | k + 1, s =>
    match s.ccl.queue, s.unattached with
    | p :: _, some c => State.attachLoop k ((s.attach c p).offer c p)
    | _, _ => s

/-- R72's attachment of unattached entries to waiting calls; there are 20 entries at most. -/
def State.attachWaiting (s : State) : State := State.attachLoop 20 s

/-! ### The closing list (R43, R44) -/

/-- The oldest closing entry is dropped with its CLOSE entry, and closes-lost rises (R43). -/
def State.dropOldestClose (s : State) : State :=
  match s.ccl.closing with
  | [] => s
  | e :: rest => (({ s with ccl := { s.ccl with closing := rest } }).unlistEntry (.close e.entry)).bump .closesLost

/-- A closing entry joins the list's tail, and its CLOSE entry is listed (R43). -/
def State.addClose (s : State) (ref : Option Nat) (p : PortNo) (reason : CloseReason)
    (channel : Option ChanNo) (duration : Nat) : State :=
  let s := if Config.closingCapacity ≤ s.ccl.closing.length then s.dropOldestClose else s
  let e : ClosingEntry :=
    { entry := s.ccl.nextEntry, ref := ref, port := p, reason := reason, channel := channel,
      duration := duration, location := (s.post p).location }
  { s with ccl := { s.ccl with closing := s.ccl.closing ++ [e], nextEntry := s.ccl.nextEntry + 1 } }.listEntry
    (.close e.entry)

/-- The duration of a call in seconds: 500 superframes each, truncated, at most 65535 (R43). -/
def State.duration (s : State) (r : CallRecord) : Nat :=
  min ((s.ccl.superframes - r.createdAt).toNat / 500) 65535

/-- A record becomes IDLE as R43 says: repeat-until, created-at and the age counter stay. -/
def State.idleRecord (s : State) (p : PortNo) : State :=
  let r := s.record p
  s.setRecord p { repeatUntil := r.repeatUntil, createdAt := r.createdAt, age := r.age, time := r.time }

/-- A record becomes PARKED with a new reference (R51). -/
def State.park (s : State) (p : PortNo) : State :=
  let r := s.newRef
  (s.setRefCounter r).setRecord p
    { s.record p with state := .parked, ref := some r, announced := false, channel := none }

/-- CCL closes the call of port `p` with a reason, up to the record's next state (R43). -/
def State.closeEntry (s : State) (p : PortNo) (reason : CloseReason) : State :=
  let r := s.record p
  let s := s.addClose r.ref p reason r.lastChannel (s.duration r)
  let s := match r.channel with
    | some c => s.releaseRequest p c
    | none => s
  s.leaveQueue p

/-- CCL closes the call of port `p`, whose record becomes IDLE (R43). -/
def State.closeCall (s : State) (p : PortNo) (reason : CloseReason) : State :=
  (s.closeEntry p reason).idleRecord p

/-- A live call is closed with a reason, a PARKED record becomes IDLE, an IDLE record is left (R52, R61,
R62). -/
def State.endCall (s : State) (reason : CloseReason) (p : PortNo) : State :=
  match (s.record p).state with
  | .idle => s
  | .parked => s.idleRecord p
  | _ => s.closeCall p reason

/-- A call closed ABANDONED, which opens the port's repeat window (R49, R50). -/
def State.abandon (s : State) (p : PortNo) : State :=
  (s.closeCall p .abandoned).modRecord p
    (fun r => { r with repeatUntil := some (s.ccl.superframes + BitVec.ofNat 32 s.sect.repeatWindow) })

/-! ### Opening a call (R41, R47) -/

/-- The port's repeat window is open (R40). -/
def State.windowOpen (s : State) (p : PortNo) : Bool :=
  match (s.record p).repeatUntil with
  | none => false
  | some u => decide (1 ≤ (u - s.ccl.superframes).toNat) && decide ((u - s.ccl.superframes).toNat ≤ 65535)

/-- The record as R41 starts it, before the classes, the repeat flag, the outcome and the new state. -/
def State.startedRecord (s : State) (p : PortNo) : CallRecord :=
  { s.record p with
    ref := some s.newRef, createdAt := s.ccl.superframes, latched := some (s.post p).latched,
    channel := none, lastChannel := none, code := none, matched := none, reest := false, announced := false,
    age := 0, time := 0 }

/-- OFFHOOK on an IDLE record opens a call (R47). -/
def State.openCall (s : State) (p : PortNo) : State :=
  let r := s.startedRecord p
  let again := s.windowOpen p
  let cls := if again then 0 else (s.post p).baseClass
  let (o, s) := (s.setRefCounter s.newRef).requestIdentity p (s.post p).idFitted
  let s := s.setRecord p
    { r with
      state := .waiting, baseClass := some cls, effClass := some cls, repeated := again, identity := some o }
  (s.placeByClass p).attachWaiting

/-- OFFHOOK on a RINGING record answers the recall (R59). -/
def State.ringTrip (s : State) (p : PortNo) : State :=
  let (o, s) := s.requestIdentity p (s.entryInUse p).idFitted
  s.setRecord p { s.record p with state := .connected, identity := some o }

/-! ### Line events (R5, R49 to R52) -/

/-- The line events LSV gives CCL (R5). -/
inductive LineEvent where
  | offhook | onhook | fault | faultCleared
  deriving DecidableEq, Repr

/-- The events of a settled change, in their order (R5). -/
def lineEvents (old new : LineState) : List LineEvent :=
  match old, new with
  | .cut, .offhook => [.faultCleared, .offhook]
  | .short, .offhook => [.faultCleared, .offhook]
  | .cut, .onhook => [.faultCleared]
  | .short, .onhook => [.faultCleared]
  | .unknown, .offhook => [.offhook]
  | .onhook, .offhook => [.offhook]
  | .unknown, .onhook => [.onhook]
  | .offhook, .onhook => [.onhook]
  | .cut, .cut => []
  | .short, .short => []
  | _, .cut => [.fault]
  | _, .short => [.fault]
  | _, _ => []

/-- OFFHOOK (R47, R52, R59). -/
def State.onOffhook (s : State) (p : PortNo) : State :=
  match (s.record p).state with
  | .idle => s.openCall p
  | .ringing => s.ringTrip p
  | _ => s

/-- ONHOOK for a WAITING port (R49). -/
def State.endWait (s : State) (p : PortNo) : State :=
  let r := s.record p
  if r.reest then s.closeCall p .callerCleared
  else if r.time < s.sect.briefLift then ((s.leaveQueue p).idleRecord p).bump .briefLifts
  else s.abandon p

/-- ONHOOK (R49 to R52). -/
def State.onOnhook (s : State) (p : PortNo) : State :=
  let r := s.record p
  match r.state with
  | .waiting => s.endWait p
  | .offered => if r.reest then s.closeCall p .callerCleared else s.abandon p
  | .alerting => if r.reest then s.closeCall p .callerCleared else s.abandon p
  | .connected => s.closeCall p .callerCleared
  | .held => s.closeCall p .callerCleared
  | .cleared => s.closeCall p .operatorCleared
  | .parked => s.idleRecord p
  | .idle => s
  | .ringing => s

/-- CCL takes a line event. -/
def State.lineEvent (s : State) (p : PortNo) : LineEvent → State
  | .offhook => s.onOffhook p
  | .onhook => s.onOnhook p
  | .fault => s.endCall .lineFault p
  | .faultCleared => s

/-! ### Call commands (R53 to R58) -/

/-- The port whose record, not IDLE, holds a reference. -/
def State.portOfRef (s : State) (ref : Byte) : Option PortNo :=
  allPorts.find? (fun p => (s.record p).state ≠ .idle ∧ (s.record p).ref = some ref.toNat)

/-- A command that names a call by its reference: stale, state-invalid, or acted on (R53). -/
def State.onRef (s : State) (ref : Byte) (acts : CallState → Bool) (f : State → PortNo → State) : State :=
  match s.portOfRef ref with
  | none => s.bump .staleCommands
  | some p => if acts (s.record p).state then f s p else s.bump .staleState

/-- A record given a new state and nothing else. -/
def State.toState (st : CallState) (s : State) (p : PortNo) : State :=
  s.setRecord p { s.record p with state := st }

/-- CLEAR on a call that holds a channel (R57). -/
def State.clearCall (s : State) (p : PortNo) : State :=
  let s := match (s.record p).channel with
    | some c => s.releaseRequest p c
    | none => s
  s.setRecord p { s.record p with state := .cleared, channel := none }

/-- States in which ANSWER acts (R53). -/
def CallState.answerable (st : CallState) : Bool := decide (st = .offered ∨ st = .alerting)

/-- States in which CLEAR acts (R53). -/
def CallState.clearable (st : CallState) : Bool :=
  decide (st = .offered ∨ st = .alerting ∨ st = .connected ∨ st = .held)

/-- LSV is told that an on step of the port's ring cadence starts (R15). -/
def State.ringOnStep (s : State) (p : PortNo) : State :=
  if (s.line p).brake then
    let s := s.modLine p (fun l => { l with brake := false })
    if s.sect.ringAutoRestart ∧ (s.line p).settled ≠ .short then s.redrive p else s.closeCall p .noAnswer
  else s

/-- Why a RECALL is refused, if it is: the first condition of R58 that applies. -/
def State.recallRefusal (s : State) (p : PortNo) (c : Option ChanNo) : Option CloseReason :=
  if (s.record p).state ≠ .idle then some .refusedBusy
  else if !(s.post p).enabled then some .refusedDisabled
  else if (s.line p).settled ≠ .onhook then some .refusedLine
  else
    match c with
    | none => some .refusedChannel
    | some c =>
      if (s.chan c).state = .bound ∧ (s.chan c).port = none then none else some .refusedChannel

/-- A recall taken on port `p` and channel `c` (R58). -/
def State.takeRecall (s : State) (p : PortNo) (c : ChanNo) : State :=
  let s := s.abortTestOn p
  let r := s.startedRecord p
  let cls := (s.post p).baseClass
  let o : IdOutcome := if (s.post p).idFitted then .pending else .notFitted
  let s := (s.setRefCounter s.newRef).attach c p
  let s := s.setRecord p
    { r with
      state := .ringing, baseClass := some cls, effClass := some cls, repeated := false, identity := some o,
      channel := some c, lastChannel := some c, announced := true }
  if (s.cadence p).phase = .on then s.ringOnStep p else s

/-- CCL acts on RECALL (R58). -/
def State.recall (s : State) (p : PortNo) (channel : Byte) : State :=
  match s.recallRefusal p (chanOfByte channel), chanOfByte channel with
  | some reason, c => s.addClose none p reason c 0
  | none, some c => s.takeRecall p c
  | none, none => s

/-- The confirmation of an OFFERED report (R54). -/
def State.offeredConfirmed (s : State) (p : PortNo) : State :=
  if (s.record p).state = .offered then State.toState .alerting s p else s

/-! ### Loss of a channel (R60) -/

/-- Superframes since a port's call was created, modulo 2^32. -/
def State.callAge (s : State) (p : PortNo) : Nat := (s.ccl.superframes - (s.record p).createdAt).toNat

/-- A port placed among re-established calls, oldest first (R60). -/
def State.insertByAge (s : State) (p : PortNo) : List PortNo → List PortNo
  | [] => [p]
  | q :: rest => if s.callAge q < s.callAge p then p :: q :: rest else q :: s.insertByAge p rest

/-- One call that lost its channel: re-established, or closed if it was RINGING (R60). -/
def State.loseChannel (p : PortNo) (s : State) : State :=
  let r := s.record p
  match r.state with
  | .ringing => s.closeCall p .channelLost
  | .offered | .alerting | .connected | .held =>
    s.setRecord p { r with state := .waiting, channel := none, reest := true, effClass := some 0, age := 0 }
  | .idle | .waiting | .cleared | .parked => s

/-- A call that a withdrawal of its channel returns to WAITING (R60). -/
def CallState.reestablishes (st : CallState) : Bool :=
  decide (st = .offered ∨ st = .alerting ∨ st = .connected ∨ st = .held)

/-- CCL is told together of the ports whose channels were withdrawn, in ascending order (R60, R72). -/
def State.channelsLost (s : State) (ports : List PortNo) : State :=
  let back := ports.filter (fun p => (s.record p).state.reestablishes)
  let front := back.foldl (fun l p => s.insertByAge p l) []
  let s := forPorts ports State.loseChannel s
  { s with ccl := { s.ccl with queue := front ++ s.ccl.queue } }.attachWaiting

/-! ### Ageing and parking (R46, R51) -/

/-- A WAITING record whose age counter reached age_period (R46). -/
def State.agePort (s : State) (p : PortNo) : State :=
  let r := s.record p
  match r.effClass with
  | some c =>
    if 0 < c.val then
      ((s.setRecord p { r with age := 0, effClass := some (fin4 (c.val - 1)) }).leaveQueue p).placeByClass p
    else s.setRecord p { r with age := 0 }
  | none => s.setRecord p { r with age := 0 }

/-- A CLEARED record parks (R51). -/
def State.parkCleared (s : State) (p : PortNo) : State := (s.closeEntry p .operatorCleared).park p

/-! ### Identity outcomes (R33 to R37) -/

/-- The counter of an outcome. -/
def IdOutcome.counter : IdOutcome → Counter
  | .pending => .idNotFitted
  | .verified => .idVerified
  | .mismatch => .idMismatch
  | .malformed => .idMalformed
  | .absent => .idAbsent
  | .uncheckedBusy => .idUncheckedBusy
  | .notFitted => .idNotFitted

/-- CCL stores an outcome with its code and matched port; only PENDING gives way to it (R37). -/
def State.storeOutcome (s : State) (p : PortNo) (o : IdOutcome) (code : Option Nat) (m : Option PortNo) :
    State :=
  if (s.record p).identity = some .pending then
    s.setRecord p { s.record p with identity := some o, code := code, matched := m }
  else s

/-- A decoder gives an outcome and is released (R36). -/
def State.giveOutcome (s : State) (d : DecNo) (p : PortNo) (o : IdOutcome) (code : Option Nat)
    (m : Option PortNo) : State :=
  ((s.bump o.counter).storeOutcome p o code m).handOn d

/-- The burst of decoder `d` fails (R33). -/
def State.burstFails (s : State) (d : DecNo) (p : PortNo) : State :=
  let s := (s.bump .idFailedBursts).modDecoder d (fun x => { x.rehunt with failed := x.failed + 1 })
  if Config.burstLimit ≤ (s.decoder d).failed then s.giveOutcome d p .malformed none none else s

/-- The port the identity index gives for a code (R35, R162). -/
def State.indexed (s : State) (code : Nat) : Option PortNo :=
  (s.tbs.index.find? (fun e => e.1 = code)).map Prod.snd

/-- Decoder `d` judges a complete burst (R35). -/
def State.judgeBurst (s : State) (d : DecNo) (p : PortNo) : State :=
  let bits := (s.decoder d).bits
  let code := burstCode bits
  if burstChecks bits then
    if code = (s.entryInUse p).code then s.giveOutcome d p .verified (some code) none
    else s.giveOutcome d p .mismatch (some code) (s.indexed code)
  else s.burstFails d p

/-- IDD hands the decoder of port `p`, if it has one, the fast-hook bit of its line (R29). DESIGN CHOICE (log entry
29): so does a decoder that an earlier port's bit of the same frame freed and handed on to `p`. -/
def State.takeHook (s : State) (p : PortNo) (bit : Loop) : State :=
  match s.decoderOf p with
  | none => s
  | some d =>
    let (x, ev) := Decoder.take s.sect bit (s.decoder d)
    let s := s.modDecoder d (fun _ => x)
    match ev with
    | .quiet => s
    | .failed => s.burstFails d p
    | .complete => s.judgeBurst d p

/-- The window of decoder `d` expired (R34). -/
def State.windowExpired (s : State) (d : DecNo) (p : PortNo) : State :=
  s.giveOutcome d p (if (s.decoder d).startSeen then .malformed else .absent) none none

end Sys2Proof.Machine
end

