-- ==== Sys2Proof/Machine/Line.lean ====
section
/-! DEFINITION. The Line Supervisor (chapter 1): measurements, classification and debounce, settled
changes, the insulation test, and what PLI losses, restarts and commits do to a line. -/

namespace Sys2Proof.Machine

/-! ### Measurements (R1, R2, R11, R14) -/

/-- A calibrated measurement from a raw code (R1). -/
def calibrate (e : Latched) (code : Nat) : Int :=
  clampInt (-Config.currentLimit) Config.currentLimit
    (roundAway (((code : Int) - 2048 - e.offset) * e.slope) 4096)

/-- The filtered current after a measurement (R2). -/
def filterStep (shift : Nat) (f m : Int) : Int := f + (m - f).tdiv ((2 : Int) ^ shift)

/-- A line after a calibrated measurement: filter, excursion checks, ring brake (R2, R11, R14). -/
def PortLine.measured (t : Thresholds) (shift : Nat) (m : Int) (l : PortLine) : PortLine :=
  { l with
    filtered := filterStep shift l.filtered m,
    excHigh := l.excHigh || excursionHigh t m,
    excLow := l.excLow || excursionLow t l.settled m,
    brake := l.brake || (decide (l.drive = .ring) && excursionHigh t m) }

/-- A calibrated measurement applied to a NORMAL port; a brake newly set changes the drive mode (R13). -/
def State.applyMeasure (s : State) (p : PortNo) (m : Int) : State :=
  let braked := (s.line p).brake
  let s := s.modLine p (fun l => l.measured (s.thresholds p) s.sect.shiftUsed m)
  if (s.line p).brake = braked then s else s.redrive p

/-- The result measurement judged (R20). -/
def State.judgeTest (s : State) (p : PortNo) (m : Int) : State :=
  let t := s.thresholds p
  if t.offhookMin ≤ m.natAbs then s.endTest .abortedUse
  else if t.insThreshold ≤ m.natAbs then
    (s.modFaults p (fun f => { f with insulationLow := true })).endTest .low
  else (s.modFaults p (fun f => { f with insulationLow := false })).endTest .pass

/-- A measurement of the line under test (R19, R20). -/
def State.testMeasure (s : State) (p : PortNo) (tag : MeasureTag) (m : Int) : State :=
  let used := decide ((s.thresholds p).offhookMin ≤ m.natAbs)
  match s.lsv.testPhase with
  | .idle => s
  | .discharge => s
  | .charge => if used then s.endTest .abortedUse else s
  | .resultWait =>
    match tag with
    | .result => s.judgeTest p m
    | .charge => if used then s.endTest .abortedUse else s
    | .normal => s
    | .discharge => s

/-- LSV takes the measurement slot of a ready PLI (R1). -/
def State.measure (s : State) (i : PliNo) (x : PliSlot) : State :=
  let p := portAt i (slotLine x)
  let m := calibrate (s.entryInUse p) (slotCode x)
  if s.lsv.testPort = some p ∧ s.lsv.testPhase ≠ .idle then s.testMeasure p (slotTag x) m
  else if s.supervision p = .normal then s.applyMeasure p m
  else s

/-! ### The boundary (R3, R4, R8, R12) -/

/-- The debounce of a candidate with its debounce value (R4). -/
def PortLine.debounced (value : Nat) (c : LineState) (l : PortLine) : PortLine :=
  if c = l.settled then { l with debounce := 0, candidate := none, settleDue := false }
  else
    let n := if l.candidate = some c then capSucc 255 l.debounce else 1
    { l with candidate := some c, debounce := n, settleDue := decide (value ≤ n) }

/-- The polarity check of one boundary (R12). -/
def PortLine.polarityStep (l : PortLine) : PortLine :=
  if polarityChecked l.settled l.drive then
    { l with polarity := polarityCount l.faults.wiringReversed l.drive l.filtered l.polarity }
  else l

/-- A NORMAL port at a boundary: classified, debounced, and its polarity checked unless its settled state is
about to change; SETTLE then checks it (R3, R4, R12). -/
def PortLine.classified (t : Thresholds) (ringing : Bool) (l : PortLine) : PortLine :=
  let c := classify t l.settled ringing l.filtered
  let l := l.debounced (debounceValue t ringing c) c
  if l.settleDue then l else l.polarityStep

/-- Port `p` at a boundary (R3, R8). -/
def State.lineBoundary (p : PortNo) (s : State) : State :=
  if s.supervision p = .normal then
    s.modLine p (fun l => l.classified (s.thresholds p) (s.isRinging p))
  else s.modLine p (fun l => { l with reversal := l.reversal - 1, settleDue := false })

/-- The counting candidate becomes the settled state (R4, R12, R22). DESIGN CHOICE (log entry 44): R12's check goes by
the drive mode that stands before the line events, so a ring trip, which then drives the line REVERSED, leaves the
polarity count 0 (R8). -/
def State.settle (s : State) (p : PortNo) (c : LineState) : State :=
  let old := (s.line p).settled
  let s := s.modLine p
    (fun l => { l with settled := c, debounce := 0, candidate := none, settleDue := false })
  let s := s.modFaults p (fun f => f.settle old c)
  let s := s.modLine p (fun l =>
    if old = .offhook ∧ c ≠ .offhook then { l with polarity := 0 } else l.polarityStep)
  if s.inBypass then s else (lineEvents old c).foldl (fun s e => s.lineEvent p e) s

/-- A port whose settled state is due to change. -/
def State.settles (s : State) (p : PortNo) : Bool :=
  (s.line p).settleDue && (s.line p).candidate.isSome && decide (s.supervision p = .normal)

/-- The REVERSAL cause of port `p` is to be removed (R8). -/
def State.reversalOver (s : State) (p : PortNo) : Bool :=
  (s.line p).causes.reversal && decide ((s.line p).reversal = 0)

/-- The REVERSAL cause removed (R8). -/
def State.endReversal (s : State) (p : PortNo) : State :=
  s.modLine p (fun l => l.setCauses { l.causes with reversal := false })

/-- WIRING-REVERSED changes and the polarity count returns to 0 (R12). -/
def State.toggleWiring (s : State) (p : PortNo) : State :=
  (s.modFaults p (fun f => { f with wiringReversed := !f.wiringReversed })).modLine p
    (fun l => { l with polarity := 0 })

/-! ### The insulation test (R17 to R20) -/

/-- A port that may be tested (R17). -/
def State.testEligible (s : State) (p : PortNo) : Bool :=
  (s.post p).testEnabled && decide (s.supervision p = .normal) && decide ((s.line p).settled = .onhook) &&
    decide ((s.record p).state = .idle)

/-- The ports after `p`, upward and wrapping from 31 to 0, `p` last. -/
def portsAfter (p : PortNo) : List PortNo := allPorts.drop (p.val + 1) ++ allPorts.take (p.val + 1)

/-- A test starts on port `p` (R19). -/
def State.startTest (s : State) (p : PortNo) : State :=
  let s := { s with
    lsv := { s.lsv with testPhase := .discharge, testPort := some p, phaseCount := s.sect.tDis } }
  (s.modLine p (fun l => l.setCauses { l.causes with test := true })).redrive p

/-- The schedule count at a boundary (R17). -/
def State.scheduleBoundary (s : State) : State :=
  if s.sect.insPeriod = 0 then s
  else
    let n := satSucc s.lsv.schedule
    { s with lsv := { s.lsv with schedule := n, testPointDue := decide (s.sect.insPeriod ≤ n) } }

/-- The phase count of a running test at a boundary (R19, R20). -/
def State.testBoundary (s : State) : State :=
  match s.lsv.testPhase with
  | .idle => s
  | .discharge => { s with lsv := { s.lsv with phaseCount := s.lsv.phaseCount - 1 } }
  | .charge => { s with lsv := { s.lsv with phaseCount := s.lsv.phaseCount - 1 } }
  | .resultWait => { s with lsv := { s.lsv with phaseCount := s.lsv.phaseCount + 1 } }

/-- A scheduled test point (R17). -/
def State.testPoint (s : State) : State :=
  let s := { s with lsv := { s.lsv with schedule := 0, testPointDue := false } }
  if s.lsv.testPhase ≠ .idle ∨ s.inBypass then s
  else
    match (portsAfter s.lsv.pointer).find? s.testEligible with
    | some p => { s with lsv := { s.lsv with pointer := p } }.startTest p
    | none => s

/-- The running test enters a phase; LSV chooses the drive mode of the tested line again (R13, R19). -/
def State.testPhaseTo (s : State) (ph : TestPhase) (count : Nat) : State :=
  let s := { s with lsv := { s.lsv with testPhase := ph, phaseCount := count } }
  match s.lsv.testPort with
  | some p => s.redrive p
  | none => s

/-! ### Losses, restarts and commits (R9, R10, R23, R24) -/

/-- A line as UNKNOWN: nothing settled, nothing counted. -/
def PortLine.unknown (l : PortLine) : PortLine :=
  { l with settled := .unknown, debounce := 0, candidate := none, settleDue := false, polarity := 0 }

/-- The port's PLI became not ready (R9). -/
def State.lineLost (p : PortNo) (s : State) : State :=
  let s := s.modLine p (fun l => l.unknown.setCauses { l.causes with pli := true })
  (s.modFaults p FaultSet.pliLost).abortTestOn p

/-- The port's PLI became ready, with the status word it brought (R9, R22). -/
def State.lineBack (w : StatusWord) (p : PortNo) (s : State) : State :=
  let s := s.modLine p (fun l =>
    { l.setCauses { l.causes with pli := false } with filtered := 0, debounce := 0 })
  s.modFaults p (fun f => f.pliBack w (lineOf p))

/-- A status word that differs from the cached one (R22, R151). -/
def State.lineStatus (w : StatusWord) (p : PortNo) (s : State) : State :=
  s.modFaults p (fun f => f.status w (lineOf p))

/-- A line at the start of a highway restart (R23). -/
def State.lineRestart (p : PortNo) (s : State) : State :=
  let s := s.modLine p (fun l =>
    { l.unknown.setCauses { l.causes with highway := true } with filtered := 0, brake := false })
  s.modFaults p FaultSet.restart

/-- The highway returned to RUNNING (R23). -/
def State.lineResume (p : PortNo) (s : State) : State :=
  s.modLine p (fun l => l.setCauses { l.causes with highway := false })

/-- What a node restart adds for a line (R24). -/
def State.lineNodeRestart (p : PortNo) (s : State) : State :=
  s.modLine p (fun l => { l.setCauses { l.causes with reversal := false } with filtered := 0, reversal := 0 })

/-- A line whose port a commit disabled (R10). -/
def State.lineDisable (p : PortNo) (s : State) : State :=
  let s := s.abortTestOn p
  (s.modLine p (fun l =>
    { l.unknown.setCauses { l.causes with reversal := false } with
      filtered := 0, reversal := 0, brake := false, excHigh := false, excLow := false, faults := {} })).redrive p

/-- A line whose port a commit enabled (R10). -/
def State.lineEnable (p : PortNo) (s : State) : State :=
  let x := s.pli (pliOf p)
  let s := s.modLine p (fun l => { l.unknown with filtered := 0 })
  s.modFaults p (fun _ =>
    { pliAbsent := !x.ready, feedLimit := x.status.feed.getLsbD (lineOf p).val,
      pliSupply := x.status.supply })

/-- OFFHOOK given for an enabled port settled OFFHOOK as the node leaves BYPASS (R6). -/
def State.liftOnLeave (p : PortNo) (s : State) : State :=
  if (s.post p).enabled ∧ (s.line p).settled = .offhook then s.lineEvent p .offhook else s

end Sys2Proof.Machine
end

