-- ==== Sys2Proof/Machine/Voice.lean ====
section
/-! DEFINITION. The Voice Conditioner (chapter 7): uplink samples and the gain control, downlink samples,
missing samples, and the choice of each port's downlink sample. -/

namespace Sys2Proof.Machine

/-! ### Uplink (R111 to R113) -/

/-- A caller's sample after the port gain (R111, step 1). -/
def portGain (g : Nat) (x : Int) : Int := clampInt (-32767) 32767 (roundAway (x * g) 64)

/-- A sample after the channel gain (R111, step 2). -/
def channelGain (a : Nat) (t : Int) : Int := roundAway (t * a) 32

/-- A sample after the limiter (R111, step 3). -/
def limiter (limit : Nat) (u : Int) : Int := clampInt (-limit) limit u

/-- A channel's items after one uplink sample, `t` being the sample after the port gain (R111, R113). -/
def VoiceChannel.sampled (sect : Sect) (t : Int) (v : VoiceChannel) : VoiceChannel :=
  let u := channelGain v.gain t
  let v := if limiter sect.limit u = u then v else { v with tally := satSucc v.tally }
  if sect.agcEnable then
    { v with peak := max v.peak t.natAbs, block := capSucc Config.blockSamples v.block }
  else v

/-- VCN forms the uplink sample of port `p`, if its channel is attached (R111). -/
def State.formUplink (s : State) (p : PortNo) (x : Int) : State :=
  let r := s.record p
  match r.channel with
  | none => s
  | some c =>
    if r.state.attached then
      let t := portGain (s.post p).gainUp x
      let u := channelGain (s.voice c).gain t
      (s.modVoice c (fun v => v.sampled s.sect t)).setUplink p (limiter s.sect.limit u)
    else s

/-- A gain held between the limits in force (R113). -/
def Sect.holdGain (t : Sect) (a : Nat) : Nat := max t.aMin (min t.aMax a)

/-- The gain a complete block gives (R113). -/
def Sect.blockGain (t : Sect) (peak a : Nat) : Nat :=
  if t.agcHigh < peak then t.holdGain (a - 2)
  else if t.agcFloor < peak ∧ peak < t.agcLow then t.holdGain (a + 1)
  else a

/-- A complete block judged (R113). -/
def VoiceChannel.judged (sect : Sect) (v : VoiceChannel) : VoiceChannel :=
  { v with gain := sect.blockGain v.peak v.gain, peak := 0, block := 0 }

/-! ### Downlink (R115 to R117) -/

/-- A downlink sample after the downlink gain (R115). -/
def downlinkGain (g : Nat) (x : Int) : Int :=
  clampInt (-8191) 8191 (roundAway (clampInt (-8192) 8191 x * g) 64)

/-- VCN receives the arriving voice field of channel `c`, attached to port `p` (R115). -/
def State.receiveDownlink (s : State) (c : ChanNo) (p : PortNo) (x : Int) : State :=
  s.modVoice c (fun v =>
    { v with lastDown := downlinkGain (s.post p).gainDown x, missing := 0, received := true })

/-- An attached channel at a highway frame (R116). -/
def VoiceChannel.frameTime (v : VoiceChannel) : VoiceChannel :=
  if v.received then { v with received := false } else { v with missing := capSucc Config.missingFrames v.missing }

/-- A channel map entry is attached (4.2). -/
def ChanEntry.attached (e : ChanEntry) : Bool := decide (e.state = .bound) && e.port.isSome

/-- VCN's look at channel `c` in a highway frame (R116). -/
def State.missingStep (c : ChanNo) (s : State) : State :=
  if (s.chan c).attached then s.modVoice c VoiceChannel.frameTime else s

/-- The sample a channel's voice stands at: silence once 16 samples are missing (R116). -/
def VoiceChannel.heard (v : VoiceChannel) : Int := if v.missing = Config.missingFrames then 0 else v.lastDown

/-- The downlink sample of port `p` (R117). -/
def State.downlinkSample (s : State) (p : PortNo) : Int :=
  let r := s.record p
  match r.state with
  | .connected =>
    match r.channel with
    | some c => (s.voice c).heard
    | none => 0
  | .waiting | .offered | .alerting | .held | .cleared => s.toneSample p
  | .ringing | .parked | .idle => 0

end Sys2Proof.Machine
end

