-- ==== Sys2Proof/Machine/Channels.lean ====
section
/-! DEFINITION. The Channel Agent (chapter 4): what each arriving tag does to its entry and to the frame,
claims, the voice fields, timers, withdrawals and the end of the switchover hold. -/

namespace Sys2Proof.Machine

/-- The node's number, from the straps (R144). -/
def State.self (s : State) : BitVec 6 := s.straps

/-- A tag of a kind that names this node. -/
def State.isSelf (s : State) (k : TagKind) (t : Tag) : Bool := decide (t.kind = k) && decide (t.node = s.self)

/-- A RELEASING entry with its timer loaded and its mismatch count 0 (R70, R71, R72, R74). At an assignment's expiry
that 0 is a DESIGN CHOICE (log entry 45): R72 loads the timer alone. -/
def State.releasing (s : State) : ChanEntry :=
  { state := .releasing, timer := atLeastOne s.sect.releaseTimeout }

/-- Channel `c` of a frame given back: RELEASE(self) and silence (R75). -/
def State.writeRelease (s : State) (c : ChanNo) (f : Frame) : Frame :=
  putVoice (putTag f c ⟨.release, s.self⟩) c 0

/-! ### One arriving tag (R65, R68, R70, R71, R73, R75) -/

/-- A tag CLAIM(self) or RELEASE(self) arrived (R65). -/
def State.noteConflict (s : State) (t : Tag) : State :=
  if s.isSelf .claim t || s.isSelf .release t then
    (s.bump .numberConflicts).setNodeFlag NodeFlags.numberConflict (fun x => { x with numberConflict := true })
  else s

/-- A tag on a NONE entry (R71, R72). DESIGN CHOICE (log entry 7): a lower channel whose mismatch count reached
withdraw_count in the same frame still counts toward the quota, since it becomes NONE in WITHDRAWAL. -/
def State.tagNone (s : State) (c : ChanNo) (t : Tag) (f : Frame) : State × Frame :=
  if s.isSelf .grant t then
    if s.heldChannels < s.sect.quotaUsed then
      ((s.modChan c (fun _ => { state := .bound, timer := atLeastOne s.sect.assignTimeout })).attachWaiting, f)
    else ((s.modChan c (fun _ => s.releasing)).bump .assignmentsRefused, s.writeRelease c f)
  else (s, f)

/-- A claim won (R70). -/
def State.claimWon (s : State) (c : ChanNo) (f : Frame) : State × Frame :=
  let s := s.bump .claimsWon
  match s.ccl.queue with
  | p :: _ => (((s.modChan c (fun _ => { state := .bound })).attach c p).offer c p, f)
  | [] => ((s.modChan c (fun _ => s.releasing)).bump .wastedWins, s.writeRelease c f)

/-- A tag on a CLAIMED entry (R68). -/
def State.tagClaimed (s : State) (c : ChanNo) (t : Tag) (f : Frame) : State × Frame :=
  match t.kind with
  | .free => (s, putTag f c ⟨.claim, s.self⟩)
  | .claim => (s, f)
  | .release => (s, f)
  | .blocked => ((s.modChan c (fun _ => {})).bump .claimsLost, f)
  | .grant =>
    if s.isSelf .grant t then s.claimWon c f else ((s.modChan c (fun _ => {})).bump .claimsLost, f)

/-- A BOUND entry after a mismatch (R73). -/
def ChanEntry.mismatched (limit : Nat) (e : ChanEntry) : ChanEntry :=
  let n := satSucc e.mismatch
  { e with mismatch := n, withdrawDue := decide (limit ≤ n) }

/-- A tag on a BOUND entry; during the switchover hold it is not checked (R73, R77). -/
def State.tagBound (s : State) (c : ChanNo) (t : Tag) : State :=
  if s.holding then s
  else if s.isSelf .grant t then s.modChan c (fun e => { e with mismatch := 0, withdrawDue := false })
  else s.modChan c (fun e => e.mismatched (atLeastOne s.sect.withdrawCount))

/-- A tag on a RELEASING entry (R75). -/
def State.tagReleasing (s : State) (c : ChanNo) (t : Tag) (f : Frame) : State × Frame :=
  if s.isSelf .grant t then (s, s.writeRelease c f)
  else if s.isSelf .claim t || s.isSelf .release t then (s, f)
  else (s.modChan c (fun _ => {}), f)

/-- CHA applies the tag of channel `c` that arrived in frame `f0`; the pair is the state and the frame as it
will leave (R64). -/
def applyTag (f0 : Frame) (x : State × Frame) (c : ChanNo) : State × Frame :=
  let t := tagOf f0 c
  let s := x.1.noteConflict t
  match (s.chan c).state with
  | .none => s.tagNone c t x.2
  | .claimed => s.tagClaimed c t x.2
  | .bound => (s.tagBound c t, x.2)
  | .releasing => s.tagReleasing c t x.2

/-- The voice field of channel `c` of arriving frame `f0`: an attached entry that met GRANT(self) exchanges it
(R76, R112, R115). -/
def exchangeVoice (f0 : Frame) (x : State × Frame) (c : ChanNo) : State × Frame :=
  let e := x.1.chan c
  match e.state, e.port with
  | .bound, some p =>
    if x.1.isSelf .grant (tagOf f0 c) then
      (x.1.receiveDownlink c p (voiceOf f0 c), putVoice x.2 c x.1.vcn.uplink[p])
    else x
  | _, _ => x

/-! ### Claims (R67) -/

/-- The channels of a frame that arrive FREE on NONE entries, before the tags are applied. -/
def State.freeChannels (s : State) (f : Frame) : List ChanNo :=
  allChans.filter (fun c => decide ((tagOf f c).kind = .free) && decide ((s.chan c).state = .none))

/-- The conditions of R67 other than a free channel. -/
def State.mayClaim (s : State) : Bool :=
  !s.ccl.queue.isEmpty && !allChans.any (fun c => decide ((s.chan c).state = .claimed)) &&
    s.unattached.isNone && decide (s.heldChannels < s.sect.quotaUsed) && decide (s.cha.holdoff = 0) &&
    !s.holding

/-- The lowest of some channels that arrived FREE whose entry is NONE (R67). -/
def State.claimable (s : State) (free : List ChanNo) : Option ChanNo :=
  free.find? (fun c => (s.chan c).state = .none)

/-- The claim decision at the end of a processed frame, `free` being its candidates in ascending order
(R67). -/
def claimStep (free : List ChanNo) (x : State × Frame) : State × Frame :=
  match x.1.claimable free with
  | none => x
  | some c =>
    if x.1.mayClaim then
      (x.1.modChan c (fun _ => { state := .claimed, timer := atLeastOne x.1.sect.claimTimeout }),
       putTag x.2 c ⟨.claim, x.1.self⟩)
    else x

/-- A withdrawal is due (R73). -/
def State.withdrawalDue (s : State) : Bool :=
  allChans.any (fun c => decide ((s.chan c).state = .bound) && (s.chan c).withdrawDue)

/-- CHA's part of a processed frame: tags, voice fields, and the claim decision (R64, R67, R76). DESIGN CHOICE
(log entry 7): an entry withdrawn in this frame becomes NONE in WITHDRAWAL, so the decision still counts it. -/
def State.chaFrame (s : State) (f : Frame) : State × Frame :=
  claimStep (s.freeChannels f) (allChans.foldl (exchangeVoice f) (allChans.foldl (applyTag f) (s, f)))

/-! ### Timers (R69, R72, R75, R77) -/

/-- An entry at a frame time: the claim timer falls, and the release timer unless the hold runs. -/
def ChanEntry.frameTime (holding : Bool) (e : ChanEntry) : ChanEntry :=
  match e.state with
  | .claimed => { e with timer := e.timer - 1 }
  | .releasing => if holding then e else { e with timer := e.timer - 1 }
  | .bound => e
  | .none => e

/-- An entry at a boundary: the assignment timer falls unless the hold runs. -/
def ChanEntry.boundary (holding : Bool) (e : ChanEntry) : ChanEntry :=
  if e.state = .bound ∧ e.port = none ∧ !holding then { e with timer := e.timer - 1 } else e

/-- CHA at a node frame time. DESIGN CHOICE (log entry 21): in the frame time whose boundary ends the hold the
timers stand still, since the hold still runs where it begins. -/
def State.chaFrameTime (s : State) : State :=
  { s with cha := { s.cha with
      map := s.cha.map.map (ChanEntry.frameTime s.holding), holdoff := s.cha.holdoff - 1 } }

/-! ### Withdrawals and the end of the hold (R73, R78) -/

/-- The ports attached to the entries of a selection, in ascending order. -/
def State.attachedTo (s : State) (sel : ChanEntry → Bool) : List PortNo :=
  allPorts.filter (fun p => allChans.any (fun c =>
    sel (s.chan c) && decide ((s.chan c).state = .bound) && decide ((s.chan c).port = some p)))

/-- One entry of a selection becomes NONE; a BOUND one counts as withdrawn. -/
def State.dropChan (sel : ChanEntry → Bool) (c : ChanNo) (s : State) : State :=
  if sel (s.chan c) then
    let s' := s.modChan c (fun _ => {})
    if (s.chan c).state = .bound then s'.bump .withdrawals else s'
  else s

/-- The entries of a selection become NONE, and CCL is told together of the ports that lost their channels
(R60, R73, R78). -/
def State.dropChans (s : State) (sel : ChanEntry → Bool) : State :=
  (forChans allChans (State.dropChan sel) s).channelsLost (s.attachedTo sel)

/-- The switchover hold ended (R77, R78, R140). -/
def State.holdEnded (s : State) : State :=
  if s.prc.service.isSome then s else s.dropChans (fun e => decide (e.state ≠ .none))

/-- The channel map emptied with no word to CCL (R80, R81). -/
def State.emptyMap (s : State) : State :=
  { s with cha := { map := Vector.replicate 20 {}, holdoff := 0 } }

end Sys2Proof.Machine
end

