-- ==== Sys2Proof/Machine/Signalling.lean ====
section
/-! DEFINITION. The Signalling Unit (chapter 5): cells as they pass, reports composed and confirmed, and the
seven signalling commands. -/

namespace Sys2Proof.Machine

/-! ### Cells (R82, R84, R90) -/

/-- The cell being consumed or written ends: a spoiled one is counted; a complete command is checked for its
type and waits to be acted on (R82, R84, R85, R90). -/
def State.endCell (s : State) : State :=
  let g := s.sgu
  let s := { s with sgu := { g with role := .none, command := [], report := none } }
  match g.role with
  | .consume =>
    if g.spoiled then s.bump .badCommands
    else
      match decodeCommand (cellOfList g.command) with
      | some c => { s with sgu := { s.sgu with dueCommand := some c } }
      | none => s.bump .badCommands
  | .report => if g.spoiled && g.report.isSome then s.bump .reportsSpoiled else s
  | .none => s
  | .pass => s

/-- A cell is being consumed or written. -/
def State.inCell (s : State) : Bool := decide (s.sgu.role = .consume ∨ s.sgu.role = .report)

/-- One part of the cell in progress has gone by; the cell ends when the next part would be 4. -/
def State.partGone (s : State) (spoiled : Bool) : State :=
  let s := { s with
    sgu := { s.sgu with spoiled := s.sgu.spoiled || spoiled, nextPart := s.sgu.nextPart + 1 } }
  if 4 ≤ s.sgu.nextPart then s.endCell else s

/-- A cell in progress ends at once, spoiled (R82: a new part 0, a change of service input, BYPASS). -/
def State.cutCell (s : State) : State :=
  if s.inCell then { s with sgu := { s.sgu with spoiled := true } }.endCell else s

/-- A frame time that brought no processed frame, for the cell in progress (R82). -/
def State.partMissed (s : State) : State := if s.inCell then s.partGone true else s

/-- The first LISTED entry in list order. -/
def State.firstListed (s : State) : Option EntryKey :=
  (s.sgu.reports.find? (fun e => e.status = .listed)).map (fun e => e.key)

/-- An EMPTY cell whose part 0 stands in frame `f` is taken for a report (R82). Cell 0 belongs to the superframe
whose boundary begins the frame time of that frame, so none of that superframe's cells is taken yet (R83). -/
def State.takesCell (s : State) (f : Frame) : Bool :=
  let taken := if frameNumber f = 0 ∧ s.rif.ended.isSome then 0 else s.sgu.cellsTaken
  decide (taken < s.sect.shareUsed) && s.firstListed.isSome

/-- Part 0 of a cell in a processed frame from input `i`, which gives the cell its role (R82). REPORT_SEND then
writes part 0 of the report. -/
def State.cellBegins (s : State) (i : RingInput) (f : Frame) : State × Frame :=
  let s := s.cutCell
  let g := { s.sgu with
    cell := frameNumber f / 4, nextPart := 1, spoiled := false, role := .pass, emptyCell := none }
  match cellKind (byteAt f 85) with
  | .command =>
    if byteAt f 86 = s.self.zeroExtend 8 then
      ({ s with sgu := { g with role := .consume, command := signalOf f } }, putSignal f emptyFill 0)
    else ({ s with sgu := g }, f)
  | .empty => ({ s with sgu := if s.takesCell f then { g with role := .report, emptyCell := some i } else g }, f)
  | .report => ({ s with sgu := g }, f)
  | .other => ({ s with sgu := g }, f)

/-- The part expected of the cell in progress, in a processed frame (R84, R89). -/
def State.cellGoesOn (s : State) (f : Frame) : State × Frame :=
  match s.sgu.role with
  | .consume =>
    ({ s with sgu := { s.sgu with command := s.sgu.command ++ signalOf f } }.partGone false,
     putSignal f emptyFill s.sgu.nextPart)
  | .report =>
    match s.sgu.report with
    | some cell => (s.partGone false, putSignal f cell s.sgu.nextPart)
    | none => (s.partGone false, f)
  | .none => (s, f)
  | .pass => (s, f)

/-- SGU's part of a processed frame from input `i`: the state and the frame as it leaves (R82). DESIGN CHOICE (log
entry 40): a processed frame that begins no node frame time (R130) counts as a frame time of the cell too, and
raises next part. -/
def State.sguFrame (s : State) (i : RingInput) (f : Frame) : State × Frame :=
  if frameNumber f % 4 = 0 then s.cellBegins i f
  else if s.inCell then
    if frameNumber f = 4 * s.sgu.cell + s.sgu.nextPart then s.cellGoesOn f else (s.partGone true, f)
  else (s, f)

/-! ### Report contents (R93 to R96, 13.3) -/

/-- A byte for a port, channel or other number that may be absent (R174). -/
def optByte {n : Nat} : Option (Fin n) → Byte
  | some k => byte k.val
  | none => 0xFF

/-- A call reference, absent written 0 (R174). -/
def refByte : Option Nat → Byte
  | some r => byte r
  | none => 0

/-- A decoded code, absent written 0xFFFF (R174). -/
def codeWord : Option Nat → Word
  | some c => word c
  | none => 0xFFFF

/-- A class that may be absent, absent as 0 (13.7). -/
def classNo (c : Option (Fin 4)) : Nat := (c.map Fin.val).getD 0

/-- A report cell: its kind and type, the node, and its bytes from 2 on. -/
def State.reportCell (s : State) (type : Nat) (body : List Byte) : CellBytes :=
  cellOfList (byte (128 + type) :: s.self.zeroExtend 8 :: body)

/-- The STATE report of port `p` (R93). -/
def State.stateReport (s : State) (p : PortNo) : CellBytes :=
  let r := s.record p
  let at_ := (s.post p).location
  let code := codeWord r.code
  s.reportCell 1
    [refByte r.ref, byte p.val,
     byte (16 * r.state.code + 8 * bit01 r.repeated + 4 * bit01 r.reest + classNo r.effClass),
     byte (at_.code + 8 * classNo r.baseClass + ((r.identity.map IdOutcome.code).getD 0)),
     optByte r.channel, upper code, lower code, optByte r.matched,
     upper (word at_.distance), lower (word at_.distance)]

/-- The FAULT report of port `p` (R94). -/
def State.faultReport (s : State) (p : PortNo) : CellBytes :=
  let l := s.line p
  let at_ := (s.post p).location
  let f := BitVec.ofInt 16 l.filtered
  s.reportCell 2
    [byte p.val, byte l.faults.code, byte l.settled.code, upper f, lower f, byte at_.code,
     upper (word at_.distance), lower (word at_.distance)]

/-- The CLOSE report of a closing entry (R95). -/
def State.closeReport (s : State) (e : ClosingEntry) : CellBytes :=
  s.reportCell 3
    [refByte e.ref, byte e.port.val, byte e.reason.code, optByte e.channel, upper (word e.duration),
     lower (word e.duration), byte e.location.code, upper (word e.location.distance),
     lower (word e.location.distance)]

/-- The NODE report (R96). -/
def State.nodeReport (s : State) : CellBytes :=
  s.reportCell 4
    [byte s.prc.state.code, byte (serviceCode s.prc.service), byte s.sgu.flags.code,
     byte (bit01 s.prc.pinHealth.up + 2 * bit01 s.prc.sinHealth.up)]

/-- The closing entry that a CLOSE entry's key names. -/
def State.closingOf (s : State) (n : Nat) : Option ClosingEntry := s.ccl.closing.find? (fun e => e.entry = n)

/-- The report of an entry and its echo content, composed from its source as it stands (5.5, 5.6). A CLOSE
entry has its closing entry as long as it stands in the list. -/
def State.compose (s : State) : EntryKey → Option (CellBytes × Byte)
  | .call p => some (s.stateReport p, byte (s.record p).state.code)
  | .fault p => some (s.faultReport p, byte (s.line p).faults.code)
  | .close n => (s.closingOf n).map (fun e => (s.closeReport e, byte e.reason.code))
  | .node => some (s.nodeReport, byte s.sgu.flags.code)

/-! ### Sending and confirming (R83, R89 to R92) -/

/-- An entry sent: SENT in its place, its timer loaded and its echo kept (R89). -/
def State.markSent (s : State) (k : EntryKey) (echo : Byte) : State :=
  { s with sgu := { s.sgu with
      reports := s.sgu.reports.map (fun e =>
        if e.key = k then
          { e with status := .sent, timer := atLeastOne s.sect.reportConfirm, echo := some echo }
        else e) } }

/-- The confirm timers at a boundary (R90). -/
def ReportEntry.boundary (e : ReportEntry) : ReportEntry :=
  match e.status with
  | .sent => { e with timer := e.timer - 1 }
  | .listed => e

/-- The confirm timer of an entry has run out. -/
def State.confirmOver (s : State) (k : EntryKey) : Bool :=
  match entryOf s.sgu.reports k with
  | some e => decide (e.status = .sent) && decide (e.timer = 0)
  | none => false

/-- An entry whose confirm timer ran out goes back to LISTED at the tail of its tier, its echo kept (R90). -/
def State.relist (s : State) (k : EntryKey) : State :=
  match entryOf s.sgu.reports k with
  | some e =>
    { s with sgu := { s.sgu with
        reports := placeTail (dropEntry s.sgu.reports k) { e with status := .listed, timer := 0 } } }.bump
      .relists
  | none => s

/-- The bits of an echo that a field occupies: seven fault flags, three NODE flags; a state code and a reason
take the whole byte (13.3, R174). -/
def echoMask : EntryKey → Byte
  | .call _ => 0xFF
  | .fault _ => 0x7F
  | .close _ => 0xFF
  | .node => 0x07

/-- An entry stands with the echo an ACK carries (R91). -/
def State.echoes (s : State) (k : EntryKey) (echo : Byte) : Bool :=
  match entryOf s.sgu.reports k with
  | some e => decide (e.echo = some (echo &&& echoMask k))
  | none => false

/-- A reference that a byte names: 0 names the absent one (R91). -/
def refOfByte (b : Byte) : Option Nat := if b = 0 then none else some b.toNat

/-- The entry that an ACK matches (R91). -/
def State.ackMatch (s : State) (kind : Byte) (port : Option PortNo) (ref echo : Byte) : Option EntryKey :=
  match kind.toNat, port with
  | 1, some p =>
    if (s.record p).ref = some ref.toNat ∧ s.echoes (.call p) echo then some (.call p) else none
  | 2, some p => if s.echoes (.fault p) echo then some (.fault p) else none
  | 3, some p =>
    (s.ccl.closing.find? (fun e =>
      decide (e.port = p) && decide (e.ref = refOfByte ref) && s.echoes (.close e.entry) echo)).map
      (fun e => .close e.entry)
  | 4, _ => if s.echoes .node echo then some .node else none
  | _, _ => none

/-- The NODE flags without those an echo names (R92). -/
def NodeFlags.without (f : NodeFlags) (echo : Byte) : NodeFlags :=
  { restarted := f.restarted && !echo.getLsbD 0, numberConflict := f.numberConflict && !echo.getLsbD 1,
    bypassLeft := f.bypassLeft && !echo.getLsbD 2 }

/-- A matching ACK removes the entry, with the effect of its type (R92). -/
def State.confirmed (s : State) (k : EntryKey) (echo : Byte) : State :=
  let s := s.unlistEntry k
  match k with
  | .call p => if echo = byte CallState.offered.code then s.offeredConfirmed p else s
  | .fault _ => s
  | .close n =>
    { s with ccl := { s.ccl with closing := s.ccl.closing.filter (fun e => !(e.entry = n)) } }
  | .node => { s with sgu := { s.sgu with flags := s.sgu.flags.without echo } }

/-- The fields of an ACK are those of no bad command (R85). -/
def ackFields (kind port : Byte) : Bool :=
  decide (kind.toNat = 4) || (decide (1 ≤ kind.toNat) && decide (kind.toNat ≤ 3) && (portOfByte port).isSome)

/-! ### The signalling commands (R85, R53 to R59) -/

/-- A command is acted on: it no longer waits (R85). -/
def State.commandActed (s : State) (c : Instr) : State :=
  if s.sgu.dueCommand = some c then { s with sgu := { s.sgu with dueCommand := none } } else s

/-- SGU takes a command with its fields good or bad; in BYPASS no command is acted on (R85, R98). -/
def State.takeCommand (s : State) (c : Instr) (good : Bool) (f : State → State) : State :=
  let s := s.commandActed c
  if s.inBypass then s else if good then f (s.bump .commandsTaken) else s.bump .badCommands

/-- ACK (R91, R92). -/
def execAck (kind port ref echo : Byte) (s : State) : Answer :=
  .next (s.takeCommand (.ack kind port ref echo) (ackFields kind port) (fun s =>
    match s.ackMatch kind (portOfByte port) ref echo with
    | some k => s.confirmed k echo
    | none => s.bump .staleAcks))

/-- ANSWER (R55). -/
def execAnswer (ref : Byte) (s : State) : Answer :=
  .next (s.takeCommand (.answer ref) true (fun s => s.onRef ref CallState.answerable (State.toState .connected)))

/-- HOLD (R56). -/
def execHold (ref : Byte) (s : State) : Answer :=
  .next (s.takeCommand (.hold ref) true (fun s =>
    s.onRef ref (fun st => decide (st = .connected)) (State.toState .held)))

/-- RESUME (R56). -/
def execResume (ref : Byte) (s : State) : Answer :=
  .next (s.takeCommand (.resume ref) true (fun s =>
    s.onRef ref (fun st => decide (st = .held)) (State.toState .connected)))

/-- CLEAR (R57). -/
def execClear (ref : Byte) (s : State) : Answer :=
  .next (s.takeCommand (.clear ref) true (fun s => s.onRef ref CallState.clearable State.clearCall))

/-- RECALL (R58). -/
def execRecall (port channel : Byte) (s : State) : Answer :=
  .next (s.takeCommand (.recall port channel) (portOfByte port).isSome (fun s =>
    match portOfByte port with
    | some p => s.recall p channel
    | none => s))

/-- CANCEL (R53, R59). -/
def execCancel (port : Byte) (s : State) : Answer :=
  .next (s.takeCommand (.cancel port) (portOfByte port).isSome (fun s =>
    match portOfByte port with
    | some p =>
      if (s.record p).state = .ringing then s.closeCall p .recallCancelled
      else if (s.record p).state = .idle then s.bump .staleCommands
      else s.bump .staleState
    | none => s))

end Sys2Proof.Machine
end

