-- ==== Sys2Proof/Machine/Messages.lean ====
section
/-! DEFINITION. The Management Agent's side of the ring (12.1): the message being assembled, the reply buffer
and the reply being written. -/

namespace Sys2Proof.Machine

/-- The bytes collected show a REQUEST to this node (R166). -/
def State.showsRequest (s : State) (bytes : List Byte) : Bool :=
  decide (bytes.getD 0 0 = 1) && decide (bytes.getD 1 0 = s.self.zeroExtend 8) && decide (2 ≤ bytes.length)

/-- The assembly before it was complete ends without being valid; a REQUEST to this node is counted (R166). -/
def State.spoilMessage (s : State) : State :=
  if s.showsRequest s.mga.assembly.bytes then s.bump .messagesSpoiled else s

/-- An assembly that has begun and not reached part 16. -/
def Assembly.open (a : Assembly) : Bool := decide (0 < a.next) && decide (a.next < 16)

/-- An assembly in progress ends, and the next begins at a field of frame number 0 (R166). -/
def State.cutMessage (s : State) : State :=
  let s := if s.mga.assembly.open then s.spoilMessage else s
  { s with mga := { s.mga with assembly := { next := 0, bytes := [], spoiled := false } } }

/-- The assembly has reached part 16: a valid REQUEST to this node is taken (R166). -/
def State.messageEnds (s : State) : State :=
  if s.mga.assembly.spoiled then s.spoilMessage
  else if s.showsRequest s.mga.assembly.bytes then
    { s with mga := { s.mga with taken := some (decodeRequest (messageOfList s.mga.assembly.bytes)) } }
  else s

/-- One management field comes to the assembly, with its frame number (R166). -/
def State.collect (s : State) (n : Nat) (field : List Byte) : State :=
  if n = 0 then
    let s := s.cutMessage
    { s with mga := { s.mga with assembly := { next := 1, bytes := field, spoiled := false } } }
  else
    let a := s.mga.assembly
    if n = a.next then
      let s := { s with mga := { s.mga with assembly := { a with next := n + 1, bytes := a.bytes ++ field } } }
      if n = 15 then s.messageEnds else s
    else { s with mga := { s.mga with assembly := { a with spoiled := true } } }

/-- A reply in writing ends with parts unwritten (R168). -/
def State.cutReply (s : State) : State :=
  match s.mga.writing with
  | some _ => { s with mga := { s.mga with writing := none } }.bump .repliesSpoiled
  | none => s

/-- The reply in writing meets a field of frame number `n` in frame `f` (R168). -/
def State.writePart (s : State) (n : Nat) (f : Frame) : State × Frame :=
  match s.mga.writing with
  | none => (s, f)
  | some w =>
    if n = w.next then
      ({ s with mga := { s.mga with
          writing := if n = 15 then none else some { w with next := n + 1 } } }, putMgmt f w.reply n)
    else (s.cutReply, f)

/-- An EMPTY message that begins now can take a reply: one is HELD, or the frame time beginning with it is the one
whose boundary executes the waiting request, whose reply it may take (R168). -/
def State.maySend (s : State) : Bool := s.mga.buffer.isSome || s.rif.ended.isSome

/-- MGA's part of a frame from input `i` whose management field it is handed: the state and the frame as it
leaves. A request passes on as it arrived; an EMPTY message is left to REPLY_WRITE (R166, R168). DESIGN CHOICE (log
entry 38): a field that ends a reply in writing and begins an EMPTY message ends that reply first. -/
def State.mgaFrame (s : State) (i : RingInput) (f0 f : Frame) : State × Frame :=
  let n := frameNumber f0
  let x := (s.collect n (mgmtOf f0)).writePart n f
  let empty := decide (n = 0) && decide (byteAt f0 88 = 0) && s.maySend
  ({ x.1 with
      mga := { x.1.mga with emptyStart := if empty then some i else none }, rif := { x.1.rif with fieldSeen := true } },
   x.2)

/-- A frame time that brought MGA no field breaks the count of an assembly in progress, and ends a reply in writing
(R166, R168). -/
def State.fieldMissed (s : State) : State :=
  let s := { s with mga := { s.mga with
    assembly := { s.mga.assembly with spoiled := s.mga.assembly.spoiled || s.mga.assembly.open } } }
  s.cutReply

/-! ### Replies (R167, R168) -/

/-- The results of a request (R167). -/
inductive Result where
  | ok | badRequest | badRange | readOnly | switchPending | invalid | busy | notEligible | timeout | noPli
  | restarted
  deriving DecidableEq, Repr

/-- A result's code (R167). -/
def Result.code : Result → Nat
  | .ok => 1
  | .badRequest => 2
  | .badRange => 3
  | .readOnly => 4
  | .switchPending => 5
  | .invalid => 6
  | .busy => 7
  | .notEligible => 8
  | .timeout => 9
  | .noPli => 10
  | .restarted => 11

/-- A composed reply (R168, 13.4). -/
def State.reply (s : State) (kind : Byte) (r : Request) (res : Result) (data : List Byte) : Message :=
  messageOfList
    ([2, s.self.zeroExtend 8, kind, r.tag, byte res.code, r.unit, upper r.first, lower r.first] ++ data)

/-- A reply placed in the reply buffer; one already HELD is lost (R168). -/
def State.placeReply (s : State) (m : Message) : State :=
  let s := if s.mga.buffer.isSome then s.bump .repliesLost else s
  { s with mga := { s.mga with buffer := some m } }

/-- No reply can be written any more into the EMPTY message that has begun: the boundary's execution alone may
still come before its first field (R168). -/
def State.closeEmpty (s : State) : State := { s with mga := { s.mga with emptyStart := none } }

/-- A result composed into a reply and placed (R168). -/
def State.answer (s : State) (kind : Byte) (r : Request) (res : Result) (data : List Byte) : State :=
  s.placeReply (s.reply kind r res data)

/-- The data of words, most significant byte first. -/
def wordsData (l : List Word) : List Byte := l.flatMap (fun w => [upper w, lower w])

/-- A request comes to its execution: it no longer waits (R166). -/
def State.requestActed (s : State) (c : Instr) : State :=
  if s.mga.taken = some c then { s with mga := { s.mga with taken := none } } else s

/-- A request executed outside BYPASS; in BYPASS it is dropped (R167). DESIGN CHOICE (log entry 22): the request
is counted before its reply is composed, so a read of the counters shows its own rise. -/
def State.takeRequest (s : State) (c : Instr) (f : State → State) : State :=
  let s := s.requestActed c
  if s.inBypass then s else f (s.bump .requestsTaken)

/-- A request executed also in BYPASS, unless the straps hold the node there, where MGA takes none (R144,
R167, R168). -/
def State.takeAnywhere (s : State) (c : Instr) (f : State → State) : State :=
  let s := s.requestActed c
  if s.prc.cause = some .straps then s else f (s.bump .requestsTaken)

end Sys2Proof.Machine
end

