-- ==== Sys2Proof/Machine/NodeClock.lean ====
section
/-! DEFINITION. The node frame clock and what goes by it: the routes and outputs of the Ring Interface (8.5), the
passing of time, the clock (8.7, 8.8), the downlink frame (10.2), and NODE_FRAME_TIME. -/

namespace Sys2Proof.Machine

/-! ### Routes and outputs (R125 to R127, R137) -/

/-- The two ring outputs. -/
inductive RingOutput where
  | pout | sout
  deriving DecidableEq, Repr

/-- What an output sends (8.5). -/
inductive Route where
  | straight (i : RingInput)
  | turned (i : RingInput)
  | fill
  deriving DecidableEq, Repr

/-- The route of each output in each protection state (R137, R141). -/
def ProtState.route : ProtState → RingOutput → Route
  | .through, .pout => .straight .pin
  | .through, .sout => .straight .sin
  | .bypass, .pout => .straight .pin
  | .bypass, .sout => .straight .sin
  | .wrapA, .pout => .turned .sin
  | .wrapA, .sout => .fill
  | .wrapB, .pout => .fill
  | .wrapB, .sout => .turned .pin
  | .isolated, .pout => .fill
  | .isolated, .sout => .fill

/-- The input whose frames a route sends. -/
def Route.source : Route → Option RingInput
  | .straight i => some i
  | .turned i => some i
  | .fill => none

/-- What an output is sending. -/
def State.out (s : State) : RingOutput → OutPort
  | .pout => s.rif.pout
  | .sout => s.rif.sout

/-- Both outputs changed alike. -/
def State.modOuts (s : State) (g : OutPort → OutPort) : State :=
  { s with rif := { s.rif with pout := g s.rif.pout, sout := g s.rif.sout } }

/-- An output has completed the frame it was sending and may begin another (R126). -/
def State.ready (s : State) (o : RingOutput) : Bool := decide ((s.out o).left = 0)

/-- An output begins a frame, of the input named or of the node's own making (R126). -/
def State.putOut (s : State) (o : RingOutput) (src : Option RingInput) (f : Frame) : State :=
  let x : OutPort := { frame := some f, source := src, left := Config.frameBits }
  match o with
  | .pout => { s with rif := { s.rif with pout := x } }
  | .sout => { s with rif := { s.rif with sout := x } }

/-- The counter of an output's fill frames. -/
def RingOutput.fillCounter : RingOutput → Counter
  | .pout => .fillFramesPout
  | .sout => .fillFramesSout

/-- An output sends a fill frame with the numbers given (R127). -/
def State.sendFill (s : State) (o : RingOutput) (n sf : Nat) : State :=
  (s.putOut o none (fillFrame n sf)).bump o.fillCounter

/-- The numbers a clock steps to (R128). -/
def nextNumbers (n sf : Nat) : Nat × Nat := if n < 15 then (n + 1, sf) else (0, (sf + 1) % 256)

/-- The numbers of the frame time in which a slot of input `i` that has just come up is sent: those the clock
steps to, where the next node frame time begins at it; else those it holds (R127, R128, R130). -/
def State.slotNumbers (s : State) (i : RingInput) : Nat × Nat :=
  let k := s.rif.clock
  if s.rif.ended = some i then nextNumbers k.number k.superframe else (k.number, k.superframe)

/-- An output on a straight route from input `i` begins the slot that comes up at this moment, at an end of the input's
frame timing: the frame stored, or a fill frame where the input has none, in a LOST frame time or at the mark to which
the timing moves. A slot that comes while the output is still sending is let go by (R122, R125 to R127). -/
def State.forward (s : State) (i : RingInput) (o : RingOutput) : State :=
  if s.prc.state.route o = .straight i ∧ s.ready o ∧ (s.input i).since = 0 then
    match (s.input i).lastClass, (s.input i).store with
    | .lost, _ => s.sendFill o (s.slotNumbers i).1 (s.slotNumbers i).2
    | _, some f => s.putOut o (some i) f
    | _, none => s
  else s

/-- An output at the start of a node frame time: a fill route sends a fill frame; a turned-back route sends the
frame its source has stored, once, or a fill frame for a LOST frame time (R122, R125 to R127). -/
def State.nodeSlot (s : State) (o : RingOutput) : State :=
  match s.prc.state.route o with
  | .straight _ => s
  | .fill => if s.ready o then s.sendFill o s.rif.clock.number s.rif.clock.superframe else s
  | .turned i =>
    if s.ready o ∧ (s.out o).source ≠ some i then
      match (s.input i).lastClass, (s.input i).store with
      | .lost, _ => s.sendFill o s.rif.clock.number s.rif.clock.superframe
      | .good, some f => s.putOut o (some i) (turnBack f)
      | .bad, some f => s.putOut o (some i) f
      | _, none => s
    else s

/-- A frame that an output is sending from input `i`, written into. -/
def OutPort.rewrite (i : RingInput) (g : Frame → Frame) (x : OutPort) : OutPort :=
  if x.source = some i then { x with frame := x.frame.map (fun f => withCheck (g f)) } else x

/-- A step of the frame time just begun writes into the frame stored from input `i`: the frame, with its check
made afresh, and the outputs that are sending it. -/
def State.rewrite (s : State) (i : RingInput) (g : Frame → Frame) : State :=
  (s.modInput i (fun x => { x with store := x.store.map (fun f => withCheck (g f)) })).modOuts (OutPort.rewrite i g)

/-! ### The passing of time (R126) -/

/-- Bit times pass at an output. -/
def OutPort.elapse (n : Nat) (x : OutPort) : OutPort := { x with left := x.left - n }

/-- Bit times pass at an input. -/
def InputPort.elapse (n : Nat) (x : InputPort) : InputPort := { x with since := x.since + n }

/-- Bit times pass: at both inputs, at both outputs and on the node frame clock. -/
def State.elapse (s : State) (n : Nat) : State :=
  { s with rif := { s.rif with
      pinPort := s.rif.pinPort.elapse n, sinPort := s.rif.sinPort.elapse n,
      clock := { s.rif.clock with age := s.rif.clock.age + n } } }.modOuts (OutPort.elapse n)

/-- The bit times until the next node frame time begins: none where a frame time of the reference has ended that
begins it, else those to the reference's next end, or the one after it where that is less than half a frame time
into a node frame time that spans a realignment; in HOLDOVER one frame time after the node frame time now running
began (R128 to R130). -/
def State.untilNode (s : State) : Nat :=
  match s.rif.clock.reference, s.rif.ended with
  | none, _ => Config.frameBits - s.rif.clock.age
  | some _, some _ => 0
  | some i, none =>
    let next := Config.frameBits - (s.input i).since
    if s.rif.clock.spanning ∧ s.rif.clock.age + next < Config.halfFrame then next + Config.frameBits else next

/-! ### The clock (R128 to R131) -/

/-- A downlink frame sent across a realignment: one with samples formed in RUNNING sends those given in their
place (R147). -/
def Downlink.repeated (voice : Vector Int 32) (d : Downlink) : Downlink :=
  if d.live then { d with voice := voice, live := false } else d

/-- The clock's timing moves; a timing that differs counts a slip, and the highway frame being sent, if it was
composed in RUNNING, repeats the voice samples of the one before (R130, R147). DESIGN CHOICE (log entry 6): a frame
composed in RESTARTING or SETTLING keeps its samples of 0, also where the one before was composed in RUNNING. -/
def State.realign (s : State) (timing : Nat) : State :=
  if timing = s.rif.clock.timing then s
  else
    let s := { s with rif := { s.rif with clock := { s.rif.clock with timing := timing, spanning := true } } }.bump .slips
    { s with hwc := { s.hwc with downlink := s.hwc.downlink.map (Downlink.repeated s.hwc.lastVoice) } }

/-- The numbers of the frame at whose end the node frame time begins, if it is GOOD (R128). -/
def State.endedNumbers (s : State) : Option (Nat × Nat) :=
  match s.rif.ended with
  | none => none
  | some i =>
    match (s.input i).lastClass, (s.input i).store with
    | .good, some f => some (frameNumber f, frameSuper f)
    | _, _ => none

/-- The clock with numbers set, in a frame time that begins at its timing; number 0 makes a boundary due (R128). -/
def State.setNumbers (s : State) (n : Nat × Nat) : State :=
  { s with rif := { s.rif with
      clock := { s.rif.clock with
        number := n.1, superframe := n.2, started := true, boundaryDue := decide (n.1 = 0), spanning := false,
        phase := s.rif.clock.timing },
      ended := none } }

/-- A node frame time begins: with no service input the clock goes to HOLDOVER; the numbers are taken or
stepped; the first frame time after power-on is numbered 0 (R128, R129). DESIGN CHOICE (log entry 37): the boundary
of a frame time numbered 0 comes due here, after the processed frame that begins it. -/
def State.clockTick (s : State) : State :=
  let s := if s.prc.service.isNone then
    { s with rif := { s.rif with clock := { s.rif.clock with following := false } } } else s
  let k := s.rif.clock
  if k.started then
    let stepped := nextNumbers k.number k.superframe
    match s.endedNumbers with
    | some n => if n = stepped then s.setNumbers n else (s.setNumbers n).bump .renumbers
    | none => s.setNumbers stepped
  else s.setNumbers (k.number, k.superframe)

/-! ### The downlink frame (R116, R117, R146, R147) -/

/-- The frame being composed belongs to RUNNING: SETTLING has ended once its count is 0 (R146). -/
def Hwc.live (h : Hwc) : Bool :=
  decide (h.state = .running) || (decide (h.state = .settling) && decide (h.phaseCount = 0))

/-- The frame being composed carries the restart mark (R146). -/
def Hwc.marks (h : Hwc) : Bool := decide (h.state = .restarting) && decide (0 < h.phaseCount)

/-- The downlink frame of the frame time that begins (R147). -/
def State.downlinkFrame (s : State) : Downlink :=
  if s.hwc.live then
    { number := s.rif.clock.number, restart := s.hwc.marks, access := none,
      voice := Vector.ofFn s.downlinkSample, drives := s.lsv.lines.map (fun l => l.drive), live := true }
  else
    { number := s.rif.clock.number, restart := s.hwc.marks, access := none,
      voice := Vector.replicate 32 0, drives := Vector.replicate 32 .normal, live := false }

/-- A downlink frame of RUNNING has been composed, which can carry the access (R153). -/
def Access.inFrame (a : Access) : Access := { a with composed := true }

/-- HWC composes and sends the downlink frame; TGN's accumulators move on (R106, R116, R147). -/
def State.sendDownlink (s : State) : State :=
  let s := forChans allChans State.missingStep s
  let last := match s.hwc.downlink with
    | some d => d.voice
    | none => s.hwc.lastVoice
  { s with
    hwc := { s.hwc with
      downlink := some s.downlinkFrame, lastVoice := last, phaseRun := true,
      access := if s.hwc.live then s.hwc.access.map Access.inFrame else s.hwc.access },
    tgn := { ports := s.tgn.ports.map (Cadence.advance s.tbs.active), formed := s.tgn.ports } }

/-- The phase count at the end of a frame time of a restart (R146). -/
def State.phaseFrame (s : State) : State :=
  if s.hwc.phaseRun ∧ s.hwc.state ≠ .running then
    { s with hwc := { s.hwc with phaseCount := s.hwc.phaseCount - 1 } }
  else s

/-- SGU and MGA at the end of a frame time: one that brought no processed frame, or no field, counts against a
cell or reply in progress (R82, R168). -/
def State.frameGone (s : State) : State :=
  let s := if s.rif.processed then s else s.partMissed
  let s := if s.rif.fieldSeen then s else s.fieldMissed
  { s with rif := { s.rif with processed := false, fieldSeen := false } }

/-! ### The node frame time (R128) -/

/-- A node frame time begins: the end of the one before for SGU, MGA and HWC, the numbers, CHA's timers, the
downlink frame, and the slots of the outputs on the node frame clock (R128, R69, R75, R82, R116, R127, R146,
R147). -/
def State.nodeTick (s : State) : State :=
  let s := s.frameGone.phaseFrame.clockTick.chaFrameTime.sendDownlink
  let s := { s with rif := { s.rif with clock := { s.rif.clock with age := 0 } } }
  (s.nodeSlot .pout).nodeSlot .sout

/-- The clock takes up the timing of its reference, which a change of service input at the very end of a node
frame time leaves to the one that begins there (R130). -/
def State.takeTiming (s : State) : State :=
  match s.rif.clock.reference with
  | none => s
  | some i => s.realign (s.input i).timing

/-- NODE_FRAME_TIME: time passes until the next node frame time, which begins (R128 to R130). -/
def execNodeFrameTime (s : State) : Answer := .next (s.elapse s.untilNode).nodeTick.takeTiming

end Sys2Proof.Machine
end

