-- ==== Sys2Proof/Machine/Ring.lean ====
section
/-! DEFINITION. The Ring Interface's inputs (chapter 8): receiving and processing frames, and the steps that write
into the frame just stored. -/

namespace Sys2Proof.Machine

/-! ### Receiving and processing (R120 to R124, R132, R135) -/

/-- Ninety-two bytes received and classed (R120). -/
def InputPort.receive (f : Frame) (x : InputPort) : InputPort :=
  if checks f then
    { x with rx := .track, lastClass := .good, lastMarker := some (markerOf f), store := some f, seen := [] }
  else { x with rx := .track, lastClass := .bad, store := some f, seen := [] }

/-- A LOST frame time (R120). -/
def InputPort.lose (x : InputPort) : InputPort :=
  { x with rx := .search, lastClass := .lost, store := none, seen := [] }

/-- What a dark line brings. -/
def darkLine : Arrival := ⟨0, []⟩

/-- The bytes in which an input looks for a mark: those the line brought, after those of the last frame time that
still could begin a frame, where the two join, and the latter alone where they are a frame begun in TRACK (R120). With
them, the bit times from the end of the last frame time to the end of a frame that begins with the first of them. -/
def InputPort.stream (x : InputPort) (a : Arrival) : List Byte × Nat :=
  if x.seen = [] then (a.bytes, Config.frameBits + a.shift)
  else if x.seenAt + 8 * x.seen.length = Config.frameBits + a.shift then (x.seen ++ a.bytes, x.seenAt)
  else
    match x.rx with
    | .track => (x.seen, x.seenAt)
    | .search => (a.bytes, Config.frameBits + a.shift)

/-- The first mark at any byte position less than one frame time behind the expected point, in bytes of which a
frame that begins with the first would end `till` bit times after the last frame time (R120). -/
def firstMark (l : List Byte) (till : Nat) : Option Nat :=
  (List.range l.length).find? (fun j => decide (till + 8 * j < 2 * Config.frameBits) && markAt l j)

/-- The first mark that an input finds: the bit times from the end of its last frame time to the end of the frame
that begins there, and the bytes from it on. In TRACK one at the expected point is the first (R120). -/
def InputPort.mark (x : InputPort) (a : Arrival) : Option (Nat × List Byte) :=
  let (l, till) := x.stream a
  (firstMark l till).map (fun j => (till + 8 * j, l.drop j))

/-- The frame that a frame time brings: its mark stands where it is expected (R120). -/
def InputPort.found (x : InputPort) (a : Arrival) : Option Frame :=
  match x.mark a with
  | some (d, l) => if d = Config.frameBits then some (frameAt l 0) else none
  | none => none

/-- The mark that SEARCH finds at a position other than the expected one, given as `InputPort.mark` gives it: the
input's frame timing moves there, and a frame begins there that the next frame time brings. A frame time at whose start
TRACK found no mark is LOST, and SEARCH looks at its bytes (R120). -/
def InputPort.restart (x : InputPort) (a : Arrival) : Option (Nat × List Byte) :=
  match x.mark a with
  | some (d, l) => if d = Config.frameBits then none else some (d, l)
  | none => none

/-- How long INPUT_FRAME_TIME goes on, in bit times from the input's last end: one frame time, or to the mark to which
the frame timing moves. DEDUCED (log entries 5 and 41) from R120, R126 and R130. -/
def InputPort.lasts (x : InputPort) (a : Arrival) : Nat :=
  match x.restart a with
  | some (d, _) => d - Config.frameBits
  | none => Config.frameBits

/-- A frame time ends that has a class. The part of a frame time in SEARCH that the mark found in it cuts off has none:
it brought no frame, and it did not pass without a mark (R120). DEDUCED (log entry 41). -/
def InputPort.classes (x : InputPort) (a : Arrival) : Bool :=
  decide (x.rx = .track) || (x.restart a).isNone

/-- The byte positions of an arrival that stand in its own frame time. -/
def arrivalPositions (a : Arrival) : Nat := (Config.frameBits - a.shift + 7) / 8

/-- The bytes of a frame time without a mark in which a frame may still begin, with the place of the first: those
behind the positions of the frame time, at all of which RIF has looked, or with none behind them a last byte that may
be half of a mark (R120). -/
def unseenOf (a : Arrival) : List Byte × Nat :=
  if arrivalPositions a < a.bytes.length then (a.bytes.drop (arrivalPositions a), a.shift + 8 * arrivalPositions a)
  else
    match a.bytes.getLast? with
    | some b => if b = 0xB6 then ([b], a.shift + 8 * (a.bytes.length - 1)) else ([], 0)
    | none => ([], 0)

/-- The frame timing of an input moves to a mark: the input is in TRACK, and the frame that begins there waits for the
next frame time (R120). -/
def InputPort.moveTo (d : Nat) (l : List Byte) (x : InputPort) : InputPort :=
  { x with
    rx := .track, timing := (x.timing + d) % Config.frameBits, seen := l, seenAt := Config.frameBits,
    since := x.since + Config.frameBits - d }

/-- A frame time of an input ends, or the mark found in it moves the input's frame timing (R120). -/
def InputPort.frameTime (a : Arrival) (x : InputPort) : InputPort :=
  match x.found a, x.restart a with
  | some f, _ => { x.receive f with since := 0 }
  | none, some (d, l) => x.lose.moveTo d l
  | none, none => { x.lose with seen := (unseenOf a).1, seenAt := (unseenOf a).2, since := 0 }

/-- PRC takes an input's class and marker; a frame time without a good mark that leaves the miss count of an UP
input at 8 takes it DOWN (R135). DEDUCED (log entry 36): a count that stood at 8 already reaches it again. -/
def InputHealth.take (c : FrameClass) (m : Option Marker) (h : InputHealth) : InputHealth :=
  if c = .good then
    if m = some .active then
      { h with miss := 0, active := capSucc Config.followFrames h.active, idle := 0, downDue := false }
    else
      { h with miss := 0, active := 0, idle := capSucc Config.followFrames h.idle, downDue := false }
  else
    { h with
      miss := capSucc Config.lossFrames h.miss, upCount := 0, active := 0,
      idle := capSucc Config.followFrames h.idle,
      downDue := h.up && decide (capSucc Config.lossFrames h.miss = Config.lossFrames) }

/-- RIF's counters of an input's LOST and BAD frame times (R121). -/
def State.countClass (s : State) (i : RingInput) : State :=
  match (s.input i).lastClass, i with
  | .good, _ => s
  | .bad, .pin => s.bump .badFramesPin
  | .bad, .sin => s.bump .badFramesSin
  | .lost, .pin => s.bump .lostFramesPin
  | .lost, .sin => s.bump .lostFramesSin

/-- An output whose frame is no longer the one stored from input `i`. -/
def OutPort.release (i : RingInput) (x : OutPort) : OutPort :=
  if x.source = some i then { x with source := none } else x

/-- The frame that later steps of its frame time could still write to is replaced. -/
def State.forgetStored (s : State) (i : RingInput) : State :=
  { s with
    sgu := { s.sgu with emptyCell := if s.sgu.emptyCell = some i then none else s.sgu.emptyCell },
    mga := { s.mga with emptyStart := if s.mga.emptyStart = some i then none else s.mga.emptyStart } }.modOuts
    (OutPort.release i)

/-- The other input. -/
def otherInput : RingInput → RingInput
  | .pin => .sin
  | .sin => .pin

/-- The input to which follow-active moves the service at the end of an input's frame time, if it does (R138). -/
def State.follows (s : State) : Option RingInput :=
  match s.prc.state, s.prc.service with
  | .through, some i =>
    if (s.health i).idle = Config.followFrames ∧ (s.health (otherInput i)).active = Config.followFrames then
      some (otherInput i)
    else none
  | _, _ => none

/-- PRC takes the class and marker of input `i`'s frame time and checks follow-active (R135, R138). -/
def State.judgeInput (s : State) (i : RingInput) : State :=
  let s := s.modHealth i (InputHealth.take (s.input i).lastClass (s.input i).lastMarker)
  { s with prc := { s.prc with followDue := s.follows.isSome } }

/-- A node frame time may end at a point that lies the bit times given back: one that spans a realignment not before
it is half a frame time old, and none that has only just begun (R128, R130). -/
def Clock.endsAt (k : Clock) (ago : Nat) : Bool :=
  decide (Config.halfFrame ≤ k.age - ago) || (!k.spanning && decide (0 < k.age))

/-- The reference, input `i`, is at an end of its frame timing, that of a frame time or the mark to which the timing
moved: the clock realigns if the timing moved, and the next node frame time begins here if the one now running may
end (R128, R130). -/
def State.refEnds (s : State) (i : RingInput) : State :=
  let s := s.realign (s.input i).timing
  { s with rif := { s.rif with
      ended := if s.rif.clock.endsAt (s.input i).since then some i else none,
      processed := false, fieldSeen := false } }

/-- A frame time of an input that has a class is counted, and PRC takes it (R121, R135). -/
def State.classInput (s : State) (i : RingInput) : State := (s.countClass i).judgeInput i

/-- A frame time of input `i` ends, or a mark moves its frame timing: time passes, what the line brought is received,
a frame time that has a class is counted and judged, and the clock follows its reference (R120, R121, R130, R135). -/
def State.receiveOn (s : State) (i : RingInput) (a : Arrival) : State :=
  let x := s.input i
  let s := s.elapse (x.lasts a - x.since)
  let s := (s.modInput i (InputPort.frameTime a)).forgetStored i
  let s := if x.classes a then s.classInput i else s
  if s.rif.clock.reference = some i then s.refEnds i else s

/-- The frame stored from input `i` is replaced by one with its check made afresh (R124). -/
def State.storeFrame (s : State) (i : RingInput) (f : Frame) : State :=
  s.modInput i (fun x => { x with store := some (withCheck f) })

/-- A frame is processed: CHA, SGU and MGA take their fields and RIF makes the check afresh (R123, R124). DESIGN
CHOICE (log entry 14): the blocks act in the order CHA, SGU, MGA, so an entry that CHA lists counts already for an
EMPTY cell whose part 0 the frame brings (R82, R89). -/
def State.processFrame (s : State) (i : RingInput) (f : Frame) : State :=
  let x := (s.bump .framesProcessed).chaFrame f
  let x := x.1.sguFrame i x.2
  let x := x.1.mgaFrame i f x.2
  let s := x.1.storeFrame i x.2
  { s with rif := { s.rif with processed := true } }

/-- In BYPASS MGA is handed the management field of a GOOD frame on PIN and may write its reply there
(R132). -/
def State.bypassFrame (s : State) (f : Frame) : State :=
  let x := s.mgaFrame .pin f f
  x.1.storeFrame .pin x.2

/-- A GOOD frame of input `i` is processed, or handed to MGA in BYPASS, or left as it arrived (R123, R132). -/
def State.serveFrame (s : State) (i : RingInput) : State :=
  match (s.input i).lastClass, (s.input i).store with
  | .good, some f =>
    if s.inBypass then
      if i = .pin ∧ s.prc.cause ≠ some .straps then s.bypassFrame f else s
    else if s.prc.service = some i ∧ markerOf f = .active then s.processFrame i f
    else s
  | _, _ => s

/-- INPUT_FRAME_TIME (R120 to R127, R132, R135). DEDUCED (log entry 41): where SEARCH finds a mark at a position other
than the expected one, it is taken at the mark, and the next one brings the frame. -/
def execInputFrameTime (i : RingInput) (a : Option Arrival) (s : State) : Answer :=
  .next ((((s.receiveOn i (a.getD darkLine)).serveFrame i).forward i .pout).forward i .sout)

/-! ### Steps that write into the stored frame -/

/-- WITHDRAWAL (R60, R73): the entries whose mismatch counts reached withdraw_count, together. -/
def execWithdrawal (s : State) : Answer :=
  .next (if s.withdrawalDue then s.dropChans (fun e => decide (e.state = .bound) && e.withdrawDue) else s)

/-- Part 0 of a cell taken in frame 0 waits for the boundary that begins its frame time, which sets the count of
cells taken to 0 (R83, R128). -/
def State.boundaryFirst (s : State) : Bool :=
  decide (s.sgu.cell = 0) && (s.rif.ended.isSome || s.rif.clock.boundaryDue)

/-- The entry and report with which REPORT_SEND writes part 0 of the cell taken for a report, while it stands at
part 0 (R82, R83). -/
def State.sendable (s : State) : Option (RingInput × EntryKey × CellBytes × Byte) :=
  match s.sgu.emptyCell, s.firstListed with
  | some i, some k =>
    if s.sgu.role = .report ∧ s.sgu.report = none ∧ s.sgu.nextPart = 1 ∧
        s.sgu.cellsTaken < s.sect.shareUsed ∧ s.boundaryFirst = false then
      (s.compose k).map (fun x => (i, k, x.1, x.2))
    else none
  | _, _ => none

/-- REPORT_SEND (R82, R83, R89). -/
def execReportSend (s : State) : Answer :=
  .next (match s.sendable with
    | none => s
    | some (i, k, cell, echo) =>
      let s := (s.markSent k echo).bump .reportsSent
      let s := { s with sgu := { s.sgu with
        report := some cell, cellsTaken := s.sgu.cellsTaken + 1, emptyCell := none } }
      s.rewrite i (fun f => putSignal f cell 0))

/-- CONFIRM_TIMEOUT (R90). -/
def execConfirmTimeout (k : EntryKey) (s : State) : Answer :=
  .next (if s.confirmOver k then s.relist k else s)

/-- REPLY_WRITE (R168). -/
def execReplyWrite (s : State) : Answer :=
  .next (match s.mga.emptyStart, s.mga.buffer, s.mga.writing with
    | some i, some m, none =>
      { s with mga := { s.mga with
          buffer := none, writing := some { reply := m, next := 1 }, emptyStart := none } }.rewrite i
        (fun f => putMgmt f m 0)
    | _, _, _ => s)

end Sys2Proof.Machine
end

