-- ==== Sys2Proof/Machine/Protection.lean ====
section
/-! DEFINITION. The Protection Controller (chapter 9): conditions, protection states, the service input and
the switchover hold. -/

namespace Sys2Proof.Machine

/-- The protection state of two conditions (R137). -/
def protState (pinUp sinUp : Bool) : ProtState :=
  match pinUp, sinUp with
  | true, true => .through
  | false, true => .wrapA
  | true, false => .wrapB
  | false, false => .isolated

/-- The blocks that act at a change of service input: SGU's cell, MGA's assembly and reply (R82, R166, R168). -/
def State.cutService (s : State) : State :=
  let s := (s.cutCell.cutMessage).cutReply
  { s with sgu := { s.sgu with emptyCell := none }, mga := { s.mga with emptyStart := none } }

/-- A new reference's frame time that has just ended, half a frame time or more into the node frame time now
running, ends that one (R130). -/
def State.endsNow (s : State) (i : RingInput) : Bool :=
  decide ((s.input i).since = 0) && decide (Config.halfFrame ≤ s.rif.clock.age)

/-- The clock takes a new reference. It realigns to its timing, unless the old reference has ended the node frame
time now running: the next one, which NODE_FRAME_TIME begins, then takes the new timing up. With none named the
reference is absent, and the clock goes to HOLDOVER at the end of the frame time now running, one frame time after
its start, which is the clock's timing from here on (R129, R130, R134). DESIGN CHOICE (log entry 6): a frame time
that has lasted longer, across a realignment, ends at once. -/
def State.clockTo (s : State) (i : Option RingInput) : State :=
  match i with
  | none =>
    let k := s.rif.clock
    { s with rif := { s.rif with
        clock := { k with
          reference := none, timing := (k.phase + max Config.frameBits k.age) % Config.frameBits,
          spanning := false },
        ended := none } }
  | some i =>
    let s := { s with rif := { s.rif with clock := { s.rif.clock with following := true, reference := some i } } }
    if s.rif.ended.isSome then s
    else
      { s with rif := { s.rif with ended := if s.endsNow i then some i else none } }.realign (s.input i).timing

/-- PRC names a service input; a change of it starts the switchover hold (R139, R140). -/
def State.nameService (s : State) (i : Option RingInput) : State :=
  if s.prc.service = i then s
  else
    let s := { s with prc := { s.prc with
      service := i, hold := atLeastOne s.sect.switchoverHold, holdEndDue := false, followDue := false } }
    s.cutService.clockTo i

/-- PRC sets the protection state, and with it the route of each output (R137). -/
def State.setProt (s : State) (st : ProtState) : State :=
  { s with prc := { s.prc with state := st, followDue := false } }

/-- The service input of a state entered, `stay` being the one named in THROUGH (R137). -/
def ProtState.serviceOf (st : ProtState) (stay : Option RingInput) : Option RingInput :=
  match st with
  | .through => stay
  | .wrapA => some .sin
  | .wrapB => some .pin
  | .isolated => none
  | .bypass => none

/-- A protection state entered with its routes and service input (R137, R139). -/
def State.enterProt (s : State) (st : ProtState) (stay : Option RingInput) : State :=
  let s := s.setProt st
  let s := if st = .isolated then s.bump .isolations else s
  s.nameService (st.serviceOf stay)

/-- A condition changed: outside BYPASS the protection state follows, and the NODE entry is listed (R137,
R139, R142). -/
def State.rederive (s : State) : State :=
  let st := protState s.prc.pinHealth.up s.prc.sinHealth.up
  if s.inBypass || decide (st = s.prc.state) then s
  else (s.enterProt st s.prc.service).listEntry .node

/-- The counter of an input's losses. -/
def lossCounter : RingInput → Counter
  | .pin => .lossesPin
  | .sin => .lossesSin

/-- INPUT_DOWN (R135). -/
def execInputDown (i : RingInput) (s : State) : Answer :=
  .next (if (s.health i).up ∧ (s.health i).downDue then
    ((s.modHealth i (fun h => { h with up := false, downDue := false })).bump (lossCounter i)).rederive else s)

/-- INPUT_UP (R136). -/
def execInputUp (i : RingInput) (s : State) : Answer :=
  .next (if (s.health i).up = false ∧ atLeastOne s.sect.upHold ≤ (s.health i).upCount then
    (s.modHealth i (fun h => { h with up := true, downDue := false })).rederive else s)

/-- The input to which FOLLOW_ACTIVE moves the service: the conditions held when an input's frame time last
ended, and neither the protection state nor the service input has changed since (R138). -/
def State.followTo (s : State) : Option RingInput := if s.prc.followDue then s.follows else none

/-- FOLLOW_ACTIVE (R138, R139). -/
def execFollowActive (s : State) : Answer :=
  .next (match s.followTo with
    | some i => ((s.bump .serviceChanges).nameService (some i)).listEntry .node
    | none => s)

/-- SWITCHOVER_HOLD_END (R140, R77, R78). -/
def execSwitchoverHoldEnd (s : State) : Answer :=
  .next (if s.prc.holdEndDue then { s with prc := { s.prc with holdEndDue := false } }.holdEnded else s)

/-- An input's up count at a boundary (R136). -/
def InputHealth.boundary (h : InputHealth) : InputHealth := { h with upCount := satSucc h.upCount }

/-- PRC at a boundary: up counts and the hold count (R136, R140). -/
def State.prcBoundary (s : State) : State :=
  { s with prc := { s.prc with
      pinHealth := s.prc.pinHealth.boundary, sinHealth := s.prc.sinHealth.boundary,
      hold := s.prc.hold - 1, holdEndDue := s.prc.holdEndDue || decide (s.prc.hold = 1) } }

/-- The input THROUGH names on leaving BYPASS (R137). -/
def State.leaveService (s : State) : RingInput :=
  let active (i : RingInput) : Bool :=
    decide ((s.input i).lastClass = .good) && decide ((s.input i).lastMarker = some .active)
  if active .pin then .pin else if active .sin then .sin else .pin

end Sys2Proof.Machine
end

