-- ==== Sys2Proof/Machine/Highway.lean ====
section
/-! DEFINITION. The Highway Controller (chapter 10): the uplink and readiness, the PLI access, and highway
restarts. NodeClock.lean composes the downlink. -/

namespace Sys2Proof.Machine

/-! ### The PLI access (R152 to R154) -/

/-- The result of the access in flight goes to MGA, in a reply of its own request (R153, R171). Known in a frame time
and not by an execution at its boundary, it cannot be written into a message that has begun (R168). DEDUCED (log entry
10). -/
def State.answerAccess (s : State) (a : Access) (res : Result) (data : List Byte) : State :=
  s.closeEmpty.answer 11 a.request res data

/-- The access in flight leaves HWC. -/
def State.dropAccess (s : State) : State := { s with hwc := { s.hwc with access := none } }

/-- A PLI loss ends an access to its position (R154). -/
def State.abortAccess (s : State) (i : PliNo) : State :=
  match s.hwc.access with
  | none => s
  | some a =>
    if a.position = i then
      if a.write ∧ a.sent then s.dropAccess else s.dropAccess.answerAccess a .noPli []
    else s

/-- The reply field of a ready position's slot (R153). -/
def State.replyField (s : State) (i : PliNo) (x : PliSlot) : State :=
  match slotReply x with
  | none => s
  | some (index, data) =>
    match s.hwc.access with
    | none => s.bump .pliStrayReplies
    | some a =>
      if a.position = i ∧ a.sent ∧ a.fresh = false ∧ a.reply = none ∧ a.index = index then
        { s with hwc := { s.hwc with access := some { a with reply := some data } } }
      else s.bump .pliStrayReplies

/-- The timer of a sent access at the end of a later frame time (R153). -/
def Access.frameTime (a : Access) : Access :=
  if a.sent then
    if a.fresh then { a with fresh := false }
    else if a.reply.isNone then { a with timer := a.timer - 1 } else a
  else a

/-- PLI_ACCESS handed to HWC with its ranges checked (R152, R171). DESIGN CHOICE (log entry 32): the timer of an
UNSENT access and the data of a read hold 0. -/
def State.takeAccess (s : State) (r : Request) (i : PliNo) : State :=
  if s.hwc.state ≠ .running then s.answer 11 r .restarted []
  else if (s.pli i).ready = false then s.answer 11 r .noPli []
  else if r.pliWrite = false ∧ r.index = 0 then s.answer 11 r .ok [0, (s.pli i).status.code]
  else if s.hwc.access.isSome then s.answer 11 r .busy []
  else
    { s with hwc := { s.hwc with
        access := some
          { position := i, index := r.index, write := r.pliWrite, data := if r.pliWrite then r.word 0 else 0,
            sent := false, timer := 0, request := r, composed := false, fresh := false, reply := none } } }

/-- PLI_ACCESS (R152, R171). -/
def execPliAccess (r : Request) (s : State) : Answer :=
  .next (s.takeRequest (.pliAccess r) (fun s =>
    match r.position with
    | some i => if r.index < 64 then s.takeAccess r i else s.answer 11 r .badRange []
    | none => s.answer 11 r .badRange []))

/-- An unsent access, with the first downlink frame composed since it was taken, which carries it (R153). -/
def State.accessToSend (s : State) : Option (Access × Downlink) :=
  match s.hwc.access, s.hwc.downlink with
  | some a, some d => if a.sent = false ∧ a.composed ∧ s.hwc.state = .running then some (a, d) else none
  | _, _ => none

/-- ACCESS_SENT (R153). -/
def execAccessSent (s : State) : Answer :=
  .next (match s.accessToSend with
    | none => s
    | some (a, d) =>
      let s := { s with hwc := { s.hwc with
        access := some { a with sent := true, timer := Config.accessFrames, fresh := true },
        downlink := some { d with access := some ⟨a.write, a.position, a.index, a.data⟩ } } }
      if a.write then s.answerAccess a .ok [] else s)

/-- ACCESS_REPLY (R153). -/
def execAccessReply (s : State) : Answer :=
  .next (match s.hwc.access with
    | none => s
    | some a =>
      match a.reply with
      | none => s
      | some d => if a.write then s.dropAccess else s.dropAccess.answerAccess a .ok [upper d, lower d])

/-- The access in flight has run out of time (R153). -/
def Access.over (a : Access) : Bool := a.sent && !a.fresh && decide (a.timer = 0) && a.reply.isNone

/-- ACCESS_TIMEOUT (R153). -/
def execAccessTimeout (s : State) : Answer :=
  .next (match s.hwc.access with
    | none => s
    | some a =>
      if a.over then
        let s := s.dropAccess.bump .pliTimeouts
        if a.write then s else s.answerAccess a .timeout []
      else s)

/-! ### The uplink (R148, R149, R151) -/

/-- IDD is told that PLI `i` became not ready (R29). -/
def State.huntAgain (s : State) (i : PliNo) : State :=
  { s with idd := { s.idd with
      decoders := s.idd.decoders.map (fun d =>
        match d.port with
        | some p => if pliOf p = i then d.pliLost else d
        | none => d) } }

/-- PLI `i` becomes not ready (R149). -/
def State.pliLost (s : State) (i : PliNo) : State :=
  let s := s.modPli i (fun x =>
    { x with ready := false, readyCount := 0, lossCount := 0, lossReported := false, status := {} })
  let s := forPorts (portsOf i) State.lineLost (s.bump .pliLosses)
  let s := forPorts (portsOf i) (fun p (s : State) => s.setUplink p 0) (s.huntAgain i)
  s.abortAccess i

/-- What HWC hands on of a ready position's slot beside its status word: voice, measurement and fast-hook
bits (R148). DESIGN CHOICE (log entry 29): the bits go in ascending order of port, so a decoder freed by one port's
bit and handed on takes the bit of its new port in this frame only if that port comes later. -/
def State.handOnSlot (s : State) (i : PliNo) (x : PliSlot) : State :=
  let s := ([0, 1, 2, 3] : List (Fin 4)).foldl (fun s l => s.formUplink (portAt i l) (slotVoice x l)) s
  let s := s.measure i x
  ([0, 1, 2, 3] : List (Fin 4)).foldl (fun s l => s.takeHook (portAt i l) (slotHook x l)) s

/-- A status word of a ready position: a differing one is cached and handed to LSV (R151). -/
def State.statusWord (s : State) (i : PliNo) (w : StatusWord) : State :=
  if (s.pli i).status = w then s
  else forPorts (portsOf i) (State.lineStatus w) (s.modPli i (fun x => { x with status := w }))

/-- The slot of one position, judged and handed on (R148, R149). DESIGN CHOICE (log entry 43): where a slot with its
ready bit clear brings a reply to the access in flight, R154 lets either be taken first; here the loss is, so the reply
field is not looked at and a read ends NO-PLI. -/
def State.takeSlot (slots : Vector PliSlot 8) (s : State) (i : PliNo) : State :=
  let x := slots[i]
  match (s.pli i).ready, slotReady x with
  | true, true => ((s.handOnSlot i x).statusWord i (slotStatus x)).replyField i x
  | true, false => s.pliLost i
  | false, true =>
    s.modPli i (fun y => { y with readyCount := capSucc Config.readyFrames y.readyCount, slot := x })
  | false, false => s.modPli i (fun y => { y with readyCount := 0 })

/-- UPLINK_FRAME (R148). In RESTARTING and SETTLING no slot is taken. -/
def execUplinkFrame (slots : Vector PliSlot 8) (s : State) : Answer :=
  .next (if s.hwc.state = .running then
    let s := allPlis.foldl (State.takeSlot slots) s
    { s with hwc := { s.hwc with access := s.hwc.access.map Access.frameTime } }
  else s)

/-- A PLI has shown 16 frames in order (R149). -/
def Pli.returns (x : Pli) : Bool := !x.ready && decide (x.readyCount = Config.readyFrames)

/-- PLI_READY (R9, R149, R151). -/
def execPliReady (i : PliNo) (s : State) : Answer :=
  .next (if (s.pli i).returns then
    let x := (s.pli i).slot
    let s := s.modPli i (fun y => { y with ready := true, readyCount := 0, status := slotStatus x })
    let s := forPorts (portsOf i) (State.lineBack (slotStatus x)) s
    (s.handOnSlot i x).replyField i x
  else s)

/-- A loss that has lasted pli_loss superframes and is not reported (R150). DESIGN CHOICE (log entry 35): pli_loss is
that of the tables in force when PLI_LOSS_TIMEOUT is taken. -/
def State.lossDue (s : State) (i : PliNo) : Bool :=
  let x := s.pli i
  !x.ready && !x.lossReported && decide (atLeastOne s.sect.pliLoss ≤ x.lossCount)

/-- PLI_LOSS_TIMEOUT, for the lowest position that has come to it (R150, R62). -/
def execPliLossTimeout (i : PliNo) (s : State) : Answer :=
  .next (if allPlis.find? s.lossDue = some i then
    forPorts (portsOf i) (fun p (s : State) => s.endCall .equipmentFault p)
      (s.modPli i (fun x => { x with lossReported := true }))
  else s)

/-- A position's loss count at a boundary (R150). -/
def Pli.boundary (x : Pli) : Pli := if x.ready then x else { x with lossCount := satSucc x.lossCount }

/-! ### Highway restarts (R146, R23, R38, R62) -/

/-- A highway restart starts; the access in flight ends without a result (R146, R154). -/
def State.startRestart (s : State) : State :=
  let s := { s with hwc := { s.hwc with
    state := .restarting, phaseCount := Config.restartFrames, phaseRun := false, access := none,
    plis := s.hwc.plis.map (fun (x : Pli) => if x.ready then x else { x with readyCount := 0 }) } }
  let s := forPorts allPorts State.lineRestart (s.bump .highwayRestarts)
  forPorts allPorts (fun p (s : State) => s.endCall .equipmentRestart p) ((s.endTest .aborted).freeIdentity)

/-- The data in which a restart's reply reports the access it ended (R154, 13.4). DESIGN CHOICE (log entry 34):
the direction is 1 for a write and 0 for a read; with no access ended the direction and the tag are 0. -/
def endedAccess : Option Access → List Byte
  | none => [0, 0]
  | some a => [byte (128 + bit01 a.write), a.request.tag]

/-- RESTART_HIGHWAY (R171). -/
def execRestartHighway (r : Request) (s : State) : Answer :=
  .next (s.takeRequest (.restartHighway r) (fun s =>
    (s.startRestart).answer 12 r .ok (endedAccess s.hwc.access)))

/-- HIGHWAY_RESTARTING_END (R146). -/
def execHighwayRestartingEnd (s : State) : Answer :=
  .next (if s.hwc.state = .restarting ∧ s.hwc.phaseCount = 0 then
    { s with hwc := { s.hwc with state := .settling, phaseCount := Config.settlingFrames } } else s)

/-- HIGHWAY_SETTLING_END (R146, R23). -/
def execHighwaySettlingEnd (s : State) : Answer :=
  .next (if s.hwc.state = .settling ∧ s.hwc.phaseCount = 0 then
    forPorts allPorts State.lineResume { s with hwc := { s.hwc with state := .running } } else s)

end Sys2Proof.Machine
end

