-- ==== Sys2Proof/Machine/TableStore.lean ====
section
/-! DEFINITION. The Table Store (chapter 11): the commit check, the switch of banks with what each block does
then, and the identity index. -/

namespace Sys2Proof.Machine

/-- The threshold sets in ascending order. -/
def allSets : List (Fin 4) := [0, 1, 2, 3]

/-- A commit check that failed: its reason number, the table and the word index of the offending field. -/
abbrev Failure := Nat × Table × Nat

/-- The first threshold set that fails a check, with the offending word at offset `w` of its entry. -/
def firstSet (b : Bank) (reason w : Nat) (ok : Thresholds → Bool) : Option Failure :=
  (allSets.find? (fun n => !ok (b.thresholds n))).map (fun n => (reason, .thresholds, 8 * n.val + w))

/-- Two post entries that both have enabled and identity-fitted set expect the same code. -/
def sameCode (b : Bank) (p q : PortNo) : Bool :=
  (b.post p).enabled && (b.post p).idFitted && (b.post q).enabled && (b.post q).idFitted &&
    decide ((b.post p).code = (b.post q).code)

/-- Check 6: the first entry, in ascending order, that a lower entry's code repeats. -/
def firstRepeat (b : Bank) : Option Failure :=
  (allPorts.find? (fun p => allPorts.any (fun q => decide (q.val < p.val) && sameCode b q p))).map
    (fun p => (6, .post, 16 * p.val + 1))

/-- A check of the section table. -/
def sectCheck (ok : Bool) (reason w : Nat) : Option Failure := if ok then none else some (reason, .sect, w)

/-- Check 11: the selection fields in their order, each with its word. -/
def selections (t : Sect) : List (Nat × Nat) :=
  [(t.selQueue, 30), (t.selRingback, 30), (t.selHold, 30), (t.selClear, 30), (t.selRing, 31)]

/-- Check 11: the first selection field that names a cadence whose step 0 is (0, 0). -/
def firstEmpty (b : Bank) : Option Failure :=
  ((selections b.sect).find? (fun x => decide ((b.cadence x.1).steps.head? = some ⟨0, 0⟩))).map
    (fun x => (11, .sect, x.2))

/-- The commit check of the shadow tables: the first failure, in the order of the reason numbers (R159). -/
def validate (b : Bank) : Option Failure :=
  let t := b.sect
  [firstSet b 1 1 (fun x => decide (x.cutMax < x.offhookMin) && decide (x.offhookMin < x.shortMin)),
   firstSet b 2 3 (fun x => decide (x.ringtripMin < x.shortMin)),
   firstSet b 3 4 (fun x => decide ((x.h : Int) < (x.offhookMin : Int) - x.cutMax)),
   firstSet b 4 5 (fun x => decide (max 20 ((t.idStartMax + 15) / 16) < x.debOnhook)),
   firstSet b 5 6 (fun x => decide (x.debOffhook ≤ 40)),
   firstRepeat b,
   sectCheck (decide (t.quota ≠ 0)) 7 26,
   sectCheck (decide (t.aMin ≤ t.aInit) && decide (t.aInit ≤ t.aMax)) 8 28,
   sectCheck (decide (1 ≤ t.tDis) && decide (t.tDis ≤ 25)) 9 27,
   sectCheck (decide (1 ≤ t.tChg) && decide (t.tChg ≤ 75)) 10 27,
   firstEmpty b].findSome? id

/-- The identity index of a post table (R162). -/
def identityIndex (b : Bank) : List (Nat × PortNo) :=
  allPorts.filterMap (fun p =>
    if (b.post p).enabled ∧ (b.post p).idFitted then some ((b.post p).code, p) else none)

/-- The shadow tables become active, the index is built afresh, and the switch state is NONE (R160, R162). -/
def Tbs.switched (t : Tbs) : Tbs :=
  { shadow := t.shadow, active := t.shadow, switching := false, index := identityIndex t.shadow,
    switchDue := false }

/-- A port that was enabled in bank `old` and is disabled now: LSV, IDD and SGU act (R10, R38, R98). -/
def State.portDisabled (old : Bank) (p : PortNo) (s : State) : State :=
  if (old.post p).enabled ∧ !(s.post p).enabled then
    ((State.lineDisable p s).releaseIdentity p).unlistEntry (.fault p)
  else s

/-- A port that was disabled in bank `old` and is enabled now (R10). -/
def State.portEnabled (old : Bank) (p : PortNo) (s : State) : State :=
  if !(old.post p).enabled ∧ (s.post p).enabled then State.lineEnable p s else s

/-- The live call of a disabled port is closed; a PARKED record becomes IDLE (R61). -/
def State.endDisabled (p : PortNo) (s : State) : State :=
  if (s.post p).enabled then s else s.endCall .portDisabled p

/-- The gain blocks begin again when agc_enable goes from clear to set (R114). -/
def State.restartBlocks (old : Bank) (s : State) : State :=
  if !old.sect.agcEnable ∧ s.sect.agcEnable then
    { s with vcn := { s.vcn with channels := s.vcn.channels.map (fun v => { v with peak := 0, block := 0 }) } }
  else s

/-- The banks switch: the highway frame being sent takes the new tones, and each block acts on the changes that
concern it (R104, R160). -/
def State.switchBanks (s : State) : State :=
  let old := s.tbs.active
  let s := State.retone old { s with tbs := s.tbs.switched }
  let s := forPorts allPorts State.endDisabled s
  let s := forPorts allPorts (State.portDisabled old) s
  let s := forPorts allPorts (State.portEnabled old) s
  s.restartBlocks old

/-- BANK_SWITCH, at the first boundary after a commit (R160). -/
def execBankSwitch (s : State) : Answer :=
  .next (if s.tbs.switching ∧ s.tbs.switchDue then s.switchBanks else s)

end Sys2Proof.Machine
end

