-- ==== Sys2Proof/Machine/Views.lean ====
section
/-! DEFINITION. The four read-only views, word by word, each composed from the state as it stands (R164,
13.7). -/

namespace Sys2Proof.Machine

/-! ### Codes of narrow fields (13.7) -/

/-- A port, channel or position written in eight bits, 0xFF absent. -/
def optNat {n : Nat} : Option (Fin n) → Nat
  | some k => k.val
  | none => 0xFF

/-- The code of a supervision mode. -/
def Supervision.code : Supervision → Nat
  | .normal => 0
  | .frozen => 1
  | .disabled => 2

/-- The code of a counting candidate, 7 absent. -/
def candidateCode : Option LineState → Nat
  | some c => c.code
  | none => 7

/-- The code of an identity outcome, 7 absent. -/
def outcomeCode : Option IdOutcome → Nat
  | some o => o.code
  | none => 7

/-- The number of an attached decoder, 7 absent. -/
def decoderCode : Option DecNo → Nat
  | some d => d.val
  | none => 7

/-- How an entry stands in the report list. -/
def State.entryCode (s : State) (k : EntryKey) : Nat :=
  match entryOf s.sgu.reports k with
  | none => 0
  | some e =>
    match e.status with
    | .listed => 1
    | .sent => 2

/-- The code of a cadence role. -/
def CadenceRole.code : CadenceRole → Nat
  | .none => 0
  | .queue => 1
  | .ringback => 2
  | .hold => 3
  | .clear => 4
  | .ring => 5

/-- The code of a cadence phase. -/
def CadencePhase.code : CadencePhase → Nat
  | .none => 0
  | .on => 1
  | .off => 2
  | .exhausted => 3

/-- The number of a latched cadence, 15 absent. -/
def copyCode : Option CadenceCopy → Nat
  | some c => c.number
  | none => 15

/-- The code of a channel map state. -/
def ChanState.code : ChanState → Nat
  | .none => 0
  | .claimed => 1
  | .bound => 2
  | .releasing => 3

/-- The code of an input, 3 absent. -/
def inputCode : Option RingInput → Nat
  | some .pin => 0
  | some .sin => 1
  | none => 3

/-- The code of a frame class. -/
def FrameClass.code : FrameClass → Nat
  | .good => 0
  | .bad => 1
  | .lost => 2

/-- The code of a last marker, 0 absent. -/
def markerCode : Option Marker → Nat
  | none => 0
  | some .active => 1
  | some .standby => 2
  | some .ret => 3

/-- The code of a bypass cause, 0 absent. -/
def causeCode : Option BypassCause → Nat
  | none => 0
  | some .request => 1
  | some .straps => 2

/-- The code of a highway state. -/
def HighwayState.code : HighwayState → Nat
  | .running => 0
  | .restarting => 1
  | .settling => 2

/-- The code of a decoder state. -/
def DecoderState.code : DecoderState → Nat
  | .free => 0
  | .hunt => 1
  | .start => 2
  | .bits => 3

/-- The code of a test phase. -/
def TestPhase.code : TestPhase → Nat
  | .idle => 0
  | .discharge => 1
  | .charge => 2
  | .resultWait => 3

/-- The code of the last test's outcome, 0 absent. -/
def lastTestCode : Option (PortNo × TestOutcome) → Nat
  | none => 0
  | some (_, .pass) => 1
  | some (_, .low) => 2
  | some (_, .abortedUse) => 3
  | some (_, .aborted) => 4

/-! ### The views -/

/-- A value in bits `hi` to `lo` of a word, in which no field reaches beyond its bits (13.7, R174). -/
def viewField (hi lo v : Nat) : Nat := v % 2 ^ (hi + 1 - lo) * 2 ^ lo

/-- A flag in bit `k` of a word. -/
def viewFlag (k : Nat) (b : Bool) : Nat := viewField k k (bit01 b)

/-- A port's place in the wait queue, 0xFF where it has none. DESIGN CHOICE: 13.7 gives the absent place no
code; this is the code of an absent port (log entry 12). -/
def State.queuePlace (s : State) (p : PortNo) : Nat :=
  if s.ccl.queue.contains p then s.ccl.queue.idxOf p else 0xFF

/-- Word `k` of port `p` in the port status view. -/
def State.portStatusWord (s : State) (p : PortNo) (k : Nat) : Word :=
  let l := s.line p
  let r := s.record p
  let c := s.cadence p
  match k with
  | 0 => BitVec.ofInt 16 l.filtered
  | 1 => word (viewField 2 0 l.settled.code + viewField 6 4 (candidateCode l.candidate)
      + viewField 9 8 (s.supervision p).code + viewField 14 12 l.drive.code)
  | 2 => word (viewField 15 8 l.debounce + viewField 6 0 l.faults.code)
  | 3 => word (viewField 3 0 l.causes.code + viewField 6 4 l.reversal + viewField 12 8 l.polarity
      + viewFlag 13 l.excHigh + viewFlag 14 l.excLow + viewFlag 15 l.brake)
  | 4 => word (viewField 11 8 r.state.code + viewField 7 0 (r.ref.getD 0))
  | 5 => word (viewField 1 0 (classNo r.effClass) + viewField 3 2 (classNo r.baseClass) + viewFlag 4 r.repeated
      + viewFlag 5 r.reest + viewFlag 6 r.announced + viewField 10 8 (outcomeCode r.identity)
      + viewField 14 12 (decoderCode (s.decoderOf p)) + viewFlag 15 (s.awaitsDecoder p))
  | 6 => word (viewField 15 8 (optNat r.channel) + viewField 7 0 (optNat r.matched))
  | 7 => codeWord r.code
  | 8 => word (viewField 7 0 (s.queuePlace p) + viewField 9 8 (s.entryCode (.call p))
      + viewField 11 10 (s.entryCode (.fault p)))
  | 9 => word (viewField 2 0 c.role.code + viewField 7 4 (copyCode c.copy) + viewField 9 8 c.phase.code
      + viewField 11 10 c.step)
  | 10 => word (viewField 11 0 c.remaining)
  | 11 => word (viewField 7 0 c.repeatsLeft)
  | _ => 0

/-- Word `k` of channel `c` in the channel map view. -/
def State.channelWord (s : State) (c : ChanNo) (k : Nat) : Word :=
  let e := s.chan c
  let v := s.voice c
  match k with
  | 0 => word (viewField 9 8 e.state.code + viewField 7 0 (optNat e.port))
  | 1 => word e.timer
  | 2 => word e.mismatch
  | 3 => word (viewField 14 8 v.gain + viewField 5 0 v.block)
  | 4 => word v.peak
  | 5 => BitVec.ofInt 16 v.lastDown
  | 6 => word (viewField 4 0 v.missing)
  | 7 => word v.tally
  | _ => 0

/-- Word `k` of the counters view. -/
def State.counterWord (s : State) (k : Nat) : Word := word (s.counters[k]?.getD 0)

/-- The byte of an input in word 3 of the node status view. -/
def InputPort.viewByte (x : InputPort) : Nat :=
  viewField 0 0 (match x.rx with | .search => 0 | .track => 1) + viewField 2 1 x.lastClass.code
    + viewField 5 3 (markerCode x.lastMarker)

/-- The word of an input's condition and runs. -/
def InputHealth.viewWord (h : InputHealth) : Word :=
  word (viewFlag 15 h.up + viewField 14 11 h.miss + viewField 9 5 h.active + viewField 4 0 h.idle)

/-- The byte of a PLI position in words 18 to 21. -/
def Pli.viewByte (x : Pli) : Nat := viewFlag 7 x.ready + viewField 4 0 x.status.code.toNat

/-- The states of the four decoders, two bits each. -/
def Idd.codes (x : Idd) : Nat :=
  viewField 1 0 x.decoders[(0 : DecNo)].state.code + viewField 3 2 x.decoders[(1 : DecNo)].state.code
    + viewField 5 4 x.decoders[(2 : DecNo)].state.code + viewField 7 6 x.decoders[(3 : DecNo)].state.code

/-- The word of the access in flight. DESIGN CHOICE (log entry 32): with no access in flight its other fields
read 0 beside present. -/
def accessWord : Option Access → Word
  | none => 0
  | some a =>
    word (viewFlag 15 true + viewFlag 14 a.sent + viewFlag 13 a.write + viewField 10 8 a.position.val
      + viewField 5 0 a.index)

/-- Word `k` of the node status view. DESIGN CHOICE (log entry 32): the access timer of word 17 and the access
data of word 23 read 0 while no access is in flight. -/
def State.nodeWord (s : State) (k : Nat) : Word :=
  let q := s.rif.clock
  match k with
  | 0 => s.ccl.superframes.extractLsb' 16 16
  | 1 => s.ccl.superframes.extractLsb' 0 16
  | 2 => word (viewField 15 8 q.superframe + viewField 6 5 (inputCode q.reference) + viewFlag 4 (!q.following)
      + viewField 3 0 q.number)
  | 3 => word (viewField 15 8 s.rif.sinPort.viewByte + viewField 7 0 s.rif.pinPort.viewByte)
  | 4 => s.prc.pinHealth.viewWord
  | 5 => s.prc.sinHealth.viewWord
  | 6 => word s.prc.pinHealth.upCount
  | 7 => word s.prc.sinHealth.upCount
  | 8 => word (viewField 2 0 s.prc.state.code + viewField 5 4 (inputCode s.prc.service)
      + viewField 9 8 (causeCode s.prc.cause) + viewFlag 12 s.tbs.switching + viewField 14 13 s.hwc.state.code)
  | 9 => word s.prc.hold
  | 10 => word (viewField 14 8 s.sgu.reports.length + viewField 6 4 s.sgu.cellsTaken + viewField 2 0 s.sgu.flags.code)
  | 11 => word (viewField 12 8 s.cha.holdoff + viewField 6 0 (s.sgu.reports.countP (fun e => e.status = .sent)))
  | 12 => word (viewField 15 8 (optNat s.ccl.queue.head?) + viewField 5 0 s.ccl.queue.length)
  | 13 => word (viewField 15 8 s.idd.codes + viewField 3 0 s.ccl.closing.length)
  | 14 => word (viewField 14 8 s.lsv.phaseCount + viewField 6 2 s.lsv.pointer.val + viewField 1 0 s.lsv.testPhase.code)
  | 15 => word (viewField 15 8 (optNat (s.lsv.lastTest.map Prod.fst)) + viewField 7 0 (optNat s.lsv.testPort))
  | 16 => word s.lsv.schedule
  | 17 => word (viewField 14 8 ((s.hwc.access.map Access.timer).getD 0) + viewFlag 5 s.mga.writing.isSome
      + viewFlag 4 s.mga.buffer.isSome + viewField 2 0 (lastTestCode s.lsv.lastTest))
  | 18 => word (viewField 15 8 (s.pli 0).viewByte + viewField 7 0 (s.pli 1).viewByte)
  | 19 => word (viewField 15 8 (s.pli 2).viewByte + viewField 7 0 (s.pli 3).viewByte)
  | 20 => word (viewField 15 8 (s.pli 4).viewByte + viewField 7 0 (s.pli 5).viewByte)
  | 21 => word (viewField 15 8 (s.pli 6).viewByte + viewField 7 0 (s.pli 7).viewByte)
  | 22 => accessWord s.hwc.access
  | 23 => (s.hwc.access.map Access.data).getD 0
  | _ => 0

/-- A number as a port; the caller keeps it in range. -/
def portNo (n : Nat) : PortNo := Fin.ofNat 32 n
/-- A number as a channel; the caller keeps it in range. -/
def chanNo (n : Nat) : ChanNo := Fin.ofNat 20 n

/-- Word `k` of a target, read from the bank named or composed for a view (R156, R164). -/
def State.readTarget (s : State) (t : Target) (active : Bool) (k : Nat) : Word :=
  match t with
  | .table t => if active then s.tbs.active.word t k else s.tbs.shadow.word t k
  | .portStatus => s.portStatusWord (portNo (k / 16)) (k % 16)
  | .channelMap => s.channelWord (chanNo (k / 8)) (k % 8)
  | .counterView => s.counterWord k
  | .nodeStatus => s.nodeWord k

end Sys2Proof.Machine
end

