-- ==== Sys2Proof/Machine/Management.lean ====
section
/-! DEFINITION. The management requests (chapter 12) that no other block's file holds: tables and views,
counters, the insulation test on request, bypass and the node restart. -/

namespace Sys2Proof.Machine

/-! ### Tables and views (R156, R161, R169) -/

/-- The words of a target from an index on. -/
def State.wordsFrom (s : State) (t : Target) (active : Bool) (first count : Nat) : List Word :=
  (List.range count).map (fun j => s.readTarget t active (first + j))

/-- The aligned group of eight that contains a word, from that word on and wrapping (R169). -/
def groupFrom (k : Nat) : List Nat := (List.range 8).map (fun j => k / 8 * 8 + (k + j) % 8)

/-- READ_WORDS (R169). -/
def execReadWords (r : Request) (s : State) : Answer :=
  .next (s.takeRequest (.readWords r) (fun s =>
    match r.target with
    | none => s.answer 2 r .badRequest []
    | some t =>
      if r.rangeOk t.size then s.answer 2 r .ok (wordsData (s.wordsFrom t r.activeBank r.index r.count))
      else s.answer 2 r .badRange []))

/-- READ_GROUP (R169). -/
def execReadGroup (r : Request) (s : State) : Answer :=
  .next (s.takeRequest (.readGroup r) (fun s =>
    match r.target with
    | none => s.answer 3 r .badRequest []
    | some t =>
      if r.index < t.size then
        s.answer 3 r .ok (wordsData ((groupFrom r.index).map (s.readTarget t r.activeBank)))
      else s.answer 3 r .badRange []))

/-- The words of a request stored in a bank, from the first index of a table on (R156, R169). -/
def Bank.writeWords (b : Bank) (t : Table) (r : Request) : Bank :=
  (List.range r.count).foldl (fun b j => b.write (t.base + (r.index + j)) (r.word j)) b

/-- WRITE_WORDS (R156, R161, R169). -/
def execWriteWords (r : Request) (s : State) : Answer :=
  .next (s.takeRequest (.writeWords r) (fun s =>
    match r.target with
    | none => s.answer 4 r .badRequest []
    | some t =>
      if r.rangeOk t.size then
        match t with
        | .table t =>
          if r.activeBank then s.answer 4 r .readOnly []
          else if s.tbs.switching then s.answer 4 r .switchPending []
          else { s with tbs := { s.tbs with shadow := s.tbs.shadow.writeWords t r } }.answer 4 r .ok []
        | _ => s.answer 4 r .readOnly []
      else s.answer 4 r .badRange []))

/-- COMMIT (R158, R170). The switch comes due at the next SUPERFRAME_BOUNDARY taken (R160; log entry 49). -/
def execCommit (r : Request) (s : State) : Answer :=
  .next (s.takeRequest (.commit r) (fun s =>
    if s.tbs.switching then s.answer 5 r .switchPending []
    else
      match validate s.tbs.shadow with
      | some (reason, t, w) =>
        s.answer 5 r .invalid [byte reason, byte t.code, upper (word w), lower (word w)]
      | none =>
        { s with tbs := { s.tbs with switching := true, switchDue := false } }.answer 5 r .ok []))

/-- DISCARD (R161, R170). -/
def execDiscard (r : Request) (s : State) : Answer :=
  .next (s.takeRequest (.discard r) (fun s =>
    if s.tbs.switching then s.answer 6 r .switchPending []
    else { s with tbs := { s.tbs with shadow := s.tbs.active } }.answer 6 r .ok []))

/-! ### Counters and excursions (R170) -/

/-- The counters of a run of words set to 0. -/
def State.clearCounts (s : State) (first count : Nat) : State :=
  { s with counters := Vector.ofFn (fun i : Fin 51 =>
      if first ≤ i.val ∧ i.val < first + count then 0 else s.counters[i]) }

/-- READ_COUNTERS (R170). DESIGN CHOICE (log entry 22): the counters are cleared before the reply is placed, so a
replies-lost that this reply raises is kept. -/
def execReadCounters (r : Request) (s : State) : Answer :=
  .next (s.takeRequest (.readCounters r) (fun s =>
    if r.rangeOk Target.counterView.size then
      let data := wordsData (s.wordsFrom .counterView false r.index r.count)
      (if r.clearFlag then s.clearCounts r.index r.count else s).answer 7 r .ok data
    else s.answer 7 r .badRange []))

/-- CLEAR_COUNTERS (R170). DESIGN CHOICE (log entry 22): the counters are cleared before the reply is placed, so a
replies-lost that this reply raises is kept. -/
def execClearCounters (r : Request) (s : State) : Answer :=
  .next (s.takeRequest (.clearCounters r) (fun s =>
    { s with counters := Vector.replicate 51 0 }.answer 8 r .ok []))

/-- CLEAR_EXCURSION (R11, R170). -/
def execClearExcursion (r : Request) (s : State) : Answer :=
  .next (s.takeRequest (.clearExcursion r) (fun s =>
    match r.port with
    | none => s.answer 9 r .badRange []
    | some p => (s.modLine p (fun l => { l with excHigh := false, excLow := false })).answer 9 r .ok []))

/-! ### The test on request (R18, R171) -/

/-- TEST_LINE (R18, R171). -/
def execTestLine (r : Request) (s : State) : Answer :=
  .next (s.takeRequest (.testLine r) (fun s =>
    match r.port with
    | none => s.answer 10 r .badRange []
    | some p =>
      if s.lsv.testPhase ≠ .idle then s.answer 10 r .busy []
      else if s.testEligible p then (s.startTest p).answer 10 r .ok []
      else s.answer 10 r .notEligible []))

/-! ### Identification (R170) -/

/-- IDENTIFY (R170). -/
def execIdentify (r : Request) (s : State) : Answer :=
  .next (s.takeAnywhere (.identify r) (fun s =>
    s.answer 1 r .ok
      [s.self.zeroExtend 8, byte s.prc.state.code, byte (causeCode s.prc.cause),
       byte (serviceCode s.prc.service), byte (bit01 s.tbs.switching), byte s.hwc.state.code]))

/-- BAD_REQUEST: a request type that is none of the fifteen (R167). -/
def execBadRequest (kind : Byte) (r : Request) (s : State) : Answer :=
  .next (s.takeRequest (.badRequest kind r) (fun s => s.answer kind r .badRequest []))

/-! ### Bypass (R141, R143, R172) -/

/-- A record that is not IDLE becomes IDLE with no closing entry (R63). -/
def State.dropCall (p : PortNo) (s : State) : State :=
  if (s.record p).state = .idle then s else s.idleRecord p

/-- The same on entry to BYPASS, where it is counted (R63). -/
def State.forceCall (p : PortNo) (s : State) : State :=
  if (s.record p).state = .idle then s else (s.idleRecord p).bump .forcedEnds

/-- CCL, CHA, VCN and IDD with no call left: queue and closing list empty, the map NONE, uplink samples 0,
decoders FREE (R38, R63, R80, R81, R119). -/
def State.emptyCalls (s : State) : State :=
  ({ s with
    ccl := { s.ccl with queue := [], closing := [] },
    vcn := { s.vcn with uplink := Vector.replicate 32 0 } }.emptyMap).freeIdentity

/-- SGU emptied (R98). R98's table names the report list, the flags, the cell role and cells taken. DESIGN CHOICE
(log entry 42): next part becomes 0, cell spoiled clear, the command bytes empty and the cell number is kept; a
complete command not yet acted on goes with them. -/
def State.emptySgu (s : State) (flags : NodeFlags) : State :=
  { s with sgu := { s.sgu with
      role := .none, nextPart := 0, spoiled := false, command := [], report := none, cellsTaken := 0,
      reports := [], flags := flags, emptyCell := none, dueCommand := none } }

/-- PRC in BYPASS: straight routes, no service input, so no reference, and no hold (R134, R141). -/
def State.prcBypass (s : State) : State :=
  let s := (s.setProt .bypass).clockTo none
  { s with prc := { s.prc with cause := some .request, service := none, hold := 0, holdEndDue := false } }

/-- The node enters BYPASS (R141 and the blocks' own rules). -/
def State.enterBypass (s : State) : State :=
  let s := s.cutService.prcBypass
  let s := (forPorts allPorts State.forceCall s).endTest .aborted
  s.emptyCalls.emptySgu {}

/-- Some call record is not IDLE. -/
def State.callsStand (s : State) : Bool := allPorts.any (fun p => decide ((s.record p).state ≠ .idle))

/-- BYPASS (R172). -/
def execBypass (r : Request) (s : State) : Answer :=
  .next (s.takeRequest (.bypass r) (fun s =>
    if s.callsStand && !r.force then s.answer 14 r .busy [] else s.enterBypass.answer 14 r .ok []))

/-- The node leaves BYPASS (R143, R98, R6). -/
def State.leaveBypass (s : State) : State :=
  let s := { s with prc := { s.prc with cause := none } }.cutService
  let s := s.enterProt (protState s.prc.pinHealth.up s.prc.sinHealth.up) (some s.leaveService)
  let s := s.setNodeFlag NodeFlags.bypassLeft (fun x => { x with bypassLeft := true })
  let s := forPorts allPorts
    (fun p (s : State) => if (s.post p).enabled then s.listEntry (.fault p) else s) s
  forPorts allPorts State.liftOnLeave s

/-- LEAVE_BYPASS (R143, R172). -/
def execLeaveBypass (r : Request) (s : State) : Answer :=
  .next (s.takeAnywhere (.leaveBypass r) (fun s =>
    let s := if s.inBypass then s.leaveBypass else s
    s.answer 15 r .ok [byte s.prc.state.code]))

/-! ### The node restart (R173) -/

/-- LSV's own values beyond those of the highway restart (R24). -/
def State.lsvNodeRestart (s : State) : State :=
  let s := forPorts allPorts State.lineNodeRestart s
  { s with lsv := { s.lsv with schedule := 0, pointer := 31, testPointDue := false } }

/-- The shadow set equal to the active bank, and no switch pending (R165). -/
def Tbs.restarted (t : Tbs) : Tbs := { t with shadow := t.active, switching := false, switchDue := false }

/-- SGU after a node restart: the list emptied, then the NODE entry with RESTARTED (R98). -/
def State.sguRestart (s : State) : State :=
  let s := s.emptySgu { s.sgu.flags with restarted := true }
  s.listEntry .node

/-- The blocks take a node restart (R24, R38, R63, R81, R98, R108, R119, R155, R165, R173). -/
def State.restartBlocksAll (s : State) : State :=
  let s := { s with mga := { s.mga with buffer := none, writing := none } }
  let s := (forPorts allPorts State.dropCall s).emptyCalls.sguRestart
  let s := { s with tbs := s.tbs.restarted }
  s.lsvNodeRestart.startRestart

/-- RESTART_NODE (R173). -/
def execRestartNode (r : Request) (s : State) : Answer :=
  .next (s.takeRequest (.restartNode r) (fun s =>
    s.restartBlocksAll.answer 13 r .ok (endedAccess s.hwc.access)))

/-- POWER_ON with the straps as read (R144, R173). -/
def execPowerOn (straps : BitVec 6) (s : State) : Answer :=
  .next { State.powerOn straps with pending := s.pending }

end Sys2Proof.Machine
end

