-- ==== Sys2Proof/Machine/Due.lean ====
section
/-! DEFINITION. The superframe boundary, and the steps that come due without a command: a count that has run
out, a change that has been counted. Each does its work when it is due and nothing when it is not. -/

namespace Sys2Proof.Machine

/-! ### SUPERFRAME_BOUNDARY (R40 and the blocks' boundary rules) -/

/-- A record at a boundary: its time in state, and its age counter while WAITING (R40, R46). -/
def CallRecord.boundary (ageing : Bool) (r : CallRecord) : CallRecord :=
  match r.state with
  | .idle => r
  | .waiting => { r with time := satSucc r.time, age := if ageing then satSucc r.age else r.age }
  | _ => { r with time := satSucc r.time }

/-- CCL at a boundary. DESIGN CHOICE (log entry 35): ageing is on or off here by the tables in force when the
boundary is taken, which at a switch boundary (R160) may be those before it. -/
def State.cclBoundary (s : State) : State :=
  let ageing := decide (s.sect.agePeriod ≠ 0)
  { s with ccl := { s.ccl with
      superframes := s.ccl.superframes + 1, records := s.ccl.records.map (CallRecord.boundary ageing) } }

/-- A decoder at a boundary (R34). -/
def Decoder.boundary (d : Decoder) : Decoder :=
  match d.state with
  | .free => d
  | _ => { d with window := satSucc d.window }

/-- IDD at a boundary (R26, R34). -/
def State.iddBoundary (s : State) : State :=
  { s with idd := {
      decoders := s.idd.decoders.map Decoder.boundary,
      waiting := s.idd.waiting.map (fun w => { w with count := satSucc w.count }) } }

/-- The blocks with one count per entry at a boundary: TGN, CHA, SGU, HWC (R102, R72, R83, R90, R150), and the
Table Store, whose pending switch comes due (R160). DESIGN CHOICE (log entry 49): so does one that a COMMIT sent ahead
of this boundary has set PENDING, at whichever moment it was taken. -/
def State.countsBoundary (s : State) : State :=
  { s with
    tgn := { s.tgn with ports := s.tgn.ports.map Cadence.boundary },
    cha := { s.cha with map := s.cha.map.map (ChanEntry.boundary s.holding) },
    sgu := { s.sgu with cellsTaken := 0, reports := s.sgu.reports.map ReportEntry.boundary },
    hwc := { s.hwc with plis := s.hwc.plis.map Pli.boundary },
    tbs := { s.tbs with switchDue := s.tbs.switching } }

/-- LSV at a boundary: lines, schedule and test (R3, R4, R8, R12, R17, R19, R20). -/
def State.lsvBoundary (s : State) : State :=
  (forPorts allPorts State.lineBoundary s).scheduleBoundary.testBoundary

/-- The boundary of the frame time now running has been taken. -/
def State.boundaryTaken (s : State) : State :=
  { s with rif := { s.rif with clock := { s.rif.clock with boundaryDue := false } } }

/-- The blocks count a superframe boundary. -/
def State.boundary (s : State) : State :=
  (((s.boundaryTaken.cclBoundary.iddBoundary).lsvBoundary).countsBoundary).prcBoundary

/-- SUPERFRAME_BOUNDARY: once in each frame time numbered 0, and in no other (R128). -/
def execSuperframeBoundary (s : State) : Answer :=
  .next (if s.rif.clock.boundaryDue then s.boundary else s)

/-! ### Line Supervisor -/

/-- SETTLE, for the first port whose settled state is due to change (R4, R5, R12, R22). -/
def execSettle (p : PortNo) (s : State) : Answer :=
  .next (if allPorts.find? s.settles = some p then
    match (s.line p).candidate with
    | some c => s.settle p c
    | none => s
  else s)

/-- REVERSAL_END (R8). -/
def execReversalEnd (p : PortNo) (s : State) : Answer :=
  .next (if s.reversalOver p then s.endReversal p else s)

/-- WIRING_REVERSED_TOGGLE (R12). -/
def execWiringReversedToggle (p : PortNo) (s : State) : Answer :=
  .next (if (s.line p).polarity = Config.polarityBoundaries then s.toggleWiring p else s)

/-- TEST_POINT (R17, R19). DESIGN CHOICE (log entry 35): whether a test point has come is decided at
SUPERFRAME_BOUNDARY by the ins_period then in force, and not looked at again. -/
def execTestPoint (s : State) : Answer :=
  .next (if s.lsv.testPointDue then s.testPoint else s)

/-- TEST_DISCHARGE_END (R19). -/
def execTestDischargeEnd (s : State) : Answer :=
  .next (if s.lsv.testPhase = .discharge ∧ s.lsv.phaseCount = 0 then s.testPhaseTo .charge s.sect.tChg
    else s)

/-- TEST_CHARGE_END (R19). -/
def execTestChargeEnd (s : State) : Answer :=
  .next (if s.lsv.testPhase = .charge ∧ s.lsv.phaseCount = 0 then s.testPhaseTo .resultWait 0 else s)

/-- TEST_RESULT_TIMEOUT (R20). -/
def execTestResultTimeout (s : State) : Answer :=
  .next (if s.lsv.testPhase = .resultWait ∧ Config.resultBoundaries ≤ s.lsv.phaseCount then
    s.endTest .aborted else s)

/-! ### Call Controller and Identity Decoders -/

/-- A waiting port whose age counter has reached age_period (R46). DESIGN CHOICE (log entry 35): age_period is
that of the tables in force when AGEING is taken. -/
def State.ages (s : State) (p : PortNo) : Bool :=
  decide (s.sect.agePeriod ≠ 0) && decide (s.sect.agePeriod ≤ (s.record p).age)

/-- AGEING, for the first such port in queue order (R46). -/
def execAgeing (p : PortNo) (s : State) : Answer :=
  .next (if s.ccl.queue.find? s.ages = some p then s.agePort p else s)

/-- A CLEARED record whose time has reached park_timeout; it parks at a boundary, so 0 acts as 1 (R51). DESIGN CHOICE
(log entry 35): park_timeout is that of the tables in force when PARK_TIMEOUT is taken. -/
def State.parks (s : State) (p : PortNo) : Bool :=
  decide ((s.record p).state = .cleared) && decide (atLeastOne s.sect.parkTimeout ≤ (s.record p).time)

/-- PARK_TIMEOUT, in ascending order of port (R51). -/
def execParkTimeout (p : PortNo) (s : State) : Answer :=
  .next (if allPorts.find? s.parks = some p then s.parkCleared p else s)

/-- A place in the decoder wait list whose count has reached identity_window (R26). DESIGN CHOICE (log entry 35): that
of the tables in force when DECODER_WAIT_EXPIRY is taken. -/
def State.waitOver (s : State) (w : Waiter) : Bool := decide (s.sect.windowUsed ≤ w.count)

/-- DECODER_WAIT_EXPIRY, for the first such port in list order (R26). -/
def execDecoderWaitExpiry (p : PortNo) (s : State) : Answer :=
  .next (if (s.idd.waiting.find? s.waitOver).map Waiter.port = some p then
    ((s.leaveDecoderWait p).bump .idUncheckedBusy).storeOutcome p .uncheckedBusy none none
  else s)

/-- IDENTITY_WINDOW_EXPIRY (R34). DESIGN CHOICE (log entry 35): identity_window is that of the tables in force when the
row is taken. -/
def execIdentityWindowExpiry (d : DecNo) (s : State) : Answer :=
  .next (match (s.decoder d).port with
    | some p =>
      if (s.decoder d).state ≠ .free ∧ s.sect.windowUsed ≤ (s.decoder d).window then s.windowExpired d p
      else s
    | none => s)

/-! ### Tone Generator -/

/-- A phase whose remaining count has reached 0 (R102). -/
def Cadence.ends (c : Cadence) : Bool :=
  decide (c.phase = .on ∨ c.phase = .off) && decide (c.remaining = 0)

/-- The moves at the end of a phase, and for the ring cadence what LSV and CCL make of them (R101, R103,
R105). -/
def State.cadenceEnd (s : State) (p : PortNo) : State :=
  let c := s.cadence p
  let now := s.tbs.active.cadence (s.sect.selection c.role)
  let (c', ev) := c.phaseEnd now
  let s := s.modCadence p (fun _ => c')
  if c.role = .ring then
    let s := s.redrive p
    match ev with
    | .quiet => s
    | .onStep => s.ringOnStep p
    | .exhausted => if (s.record p).state = .ringing then s.closeCall p .noAnswer else s
  else s

/-- CADENCE_PHASE_END (R101 to R105). -/
def execCadencePhaseEnd (p : PortNo) (s : State) : Answer :=
  .next (if (s.cadence p).ends then s.cadenceEnd p else s)

/-! ### Channel Agent -/

/-- CLAIM_TIMEOUT (R69). -/
def execClaimTimeout (c : ChanNo) (s : State) : Answer :=
  .next (if (s.chan c).state = .claimed ∧ (s.chan c).timer = 0 then
    let s := (s.modChan c (fun _ => {})).bump .claimTimeouts
    { s with cha := { s.cha with holdoff := Config.claimHoldoff } }
  else s)

/-- RELEASE_TIMEOUT (R75). -/
def execReleaseTimeout (c : ChanNo) (s : State) : Answer :=
  .next (if (s.chan c).state = .releasing ∧ (s.chan c).timer = 0 then
    (s.modChan c (fun _ => {})).bump .releaseTimeouts else s)

/-- ASSIGNMENT_EXPIRY (R72). The mismatch count becomes 0: DESIGN CHOICE (log entry 45). -/
def execAssignmentExpiry (c : ChanNo) (s : State) : Answer :=
  .next (if (s.chan c).state = .bound ∧ (s.chan c).port = none ∧ (s.chan c).timer = 0 then
    (s.modChan c (fun _ => s.releasing)).bump .assignmentsExpired else s)

/-! ### Voice Conditioner -/

/-- AGC_BLOCK (R113). DESIGN CHOICE: a complete block is left unjudged, its count at 64, while agc_enable is clear (log
entry 46), and judged also where its channel has ceased to be attached since the 64th sample (log entry 47). -/
def execAgcBlock (c : ChanNo) (s : State) : Answer :=
  .next (if (s.voice c).block = Config.blockSamples ∧ s.sect.agcEnable then
    s.modVoice c (VoiceChannel.judged s.sect) else s)

/-- An attached channel whose missing count is full and whose last sample still stands (R116). DESIGN CHOICE (log entry
48): on a channel that has ceased to be attached since its count was full, the row lapses and the sample stands. -/
def State.missingFull (s : State) (c : ChanNo) : Bool :=
  (s.chan c).attached && decide ((s.voice c).missing = Config.missingFrames) && decide ((s.voice c).lastDown ≠ 0)

/-- MISSING_COUNT_FULL (R116). -/
def execMissingCountFull (c : ChanNo) (s : State) : Answer :=
  .next (if s.missingFull c then s.modVoice c (fun v => { v with lastDown := 0 }) else s)

end Sys2Proof.Machine
end

