-- ==== Sys2Proof/Machine/Dispatch.lean ====
section
/-! DEFINITION. One arm per command of spec/opcode_table.json: each calls its meaning. -/

namespace Sys2Proof.Machine

open Sys2Proof

def exec (i : Instr) (s : State) : Host.Outcome State Fault Refusal :=
  match i with
  | .powerOn straps => Sys2Proof.Machine.execPowerOn straps s
  | .nodeFrameTime => Sys2Proof.Machine.execNodeFrameTime s
  | .inputFrameTime n arrival => Sys2Proof.Machine.execInputFrameTime n arrival s
  | .ack kind port ref echo => Sys2Proof.Machine.execAck kind port ref echo s
  | .answer ref => Sys2Proof.Machine.execAnswer ref s
  | .hold ref => Sys2Proof.Machine.execHold ref s
  | .resume ref => Sys2Proof.Machine.execResume ref s
  | .clear ref => Sys2Proof.Machine.execClear ref s
  | .recall port channel => Sys2Proof.Machine.execRecall port channel s
  | .cancel port => Sys2Proof.Machine.execCancel port s
  | .inputDown n => Sys2Proof.Machine.execInputDown n s
  | .inputUp n => Sys2Proof.Machine.execInputUp n s
  | .followActive => Sys2Proof.Machine.execFollowActive s
  | .switchoverHoldEnd => Sys2Proof.Machine.execSwitchoverHoldEnd s
  | .superframeBoundary => Sys2Proof.Machine.execSuperframeBoundary s
  | .settle p => Sys2Proof.Machine.execSettle p s
  | .reversalEnd p => Sys2Proof.Machine.execReversalEnd p s
  | .wiringReversedToggle p => Sys2Proof.Machine.execWiringReversedToggle p s
  | .uplinkFrame slots => Sys2Proof.Machine.execUplinkFrame slots s
  | .pliReady n => Sys2Proof.Machine.execPliReady n s
  | .pliLossTimeout n => Sys2Proof.Machine.execPliLossTimeout n s
  | .accessReply => Sys2Proof.Machine.execAccessReply s
  | .accessSent => Sys2Proof.Machine.execAccessSent s
  | .accessTimeout => Sys2Proof.Machine.execAccessTimeout s
  | .agcBlock c => Sys2Proof.Machine.execAgcBlock c s
  | .missingCountFull c => Sys2Proof.Machine.execMissingCountFull c s
  | .claimTimeout c => Sys2Proof.Machine.execClaimTimeout c s
  | .releaseTimeout c => Sys2Proof.Machine.execReleaseTimeout c s
  | .assignmentExpiry c => Sys2Proof.Machine.execAssignmentExpiry c s
  | .withdrawal => Sys2Proof.Machine.execWithdrawal s
  | .ageing p => Sys2Proof.Machine.execAgeing p s
  | .parkTimeout p => Sys2Proof.Machine.execParkTimeout p s
  | .decoderWaitExpiry p => Sys2Proof.Machine.execDecoderWaitExpiry p s
  | .identityWindowExpiry d => Sys2Proof.Machine.execIdentityWindowExpiry d s
  | .testPoint => Sys2Proof.Machine.execTestPoint s
  | .testDischargeEnd => Sys2Proof.Machine.execTestDischargeEnd s
  | .testChargeEnd => Sys2Proof.Machine.execTestChargeEnd s
  | .testResultTimeout => Sys2Proof.Machine.execTestResultTimeout s
  | .cadencePhaseEnd p => Sys2Proof.Machine.execCadencePhaseEnd p s
  | .reportSend => Sys2Proof.Machine.execReportSend s
  | .confirmTimeout k => Sys2Proof.Machine.execConfirmTimeout k s
  | .identify r => Sys2Proof.Machine.execIdentify r s
  | .readWords r => Sys2Proof.Machine.execReadWords r s
  | .readGroup r => Sys2Proof.Machine.execReadGroup r s
  | .writeWords r => Sys2Proof.Machine.execWriteWords r s
  | .commit r => Sys2Proof.Machine.execCommit r s
  | .bankSwitch => Sys2Proof.Machine.execBankSwitch s
  | .discard r => Sys2Proof.Machine.execDiscard r s
  | .readCounters r => Sys2Proof.Machine.execReadCounters r s
  | .clearCounters r => Sys2Proof.Machine.execClearCounters r s
  | .clearExcursion r => Sys2Proof.Machine.execClearExcursion r s
  | .testLine r => Sys2Proof.Machine.execTestLine r s
  | .pliAccess r => Sys2Proof.Machine.execPliAccess r s
  | .restartHighway r => Sys2Proof.Machine.execRestartHighway r s
  | .highwayRestartingEnd => Sys2Proof.Machine.execHighwayRestartingEnd s
  | .highwaySettlingEnd => Sys2Proof.Machine.execHighwaySettlingEnd s
  | .restartNode r => Sys2Proof.Machine.execRestartNode r s
  | .bypass r => Sys2Proof.Machine.execBypass r s
  | .leaveBypass r => Sys2Proof.Machine.execLeaveBypass r s
  | .replyWrite => Sys2Proof.Machine.execReplyWrite s
  | .badRequest kind r => Sys2Proof.Machine.execBadRequest kind r s

end Sys2Proof.Machine
end

