-- ==== Sys2Proof/Safety.lean ====
section
/-! DEFINITION. What counts as a well-scheduled run, and the invariants the manual states of the whole part. A
run is well scheduled when each step that comes due is taken before the next command from outside; the order
among steps due together is free, as the manual leaves it. -/

namespace Sys2Proof.Machine

/-! ### Steps that are due -/

/-- A row of the table that follows from the part's own counts and not from outside it. -/
def isConsequence : Instr → Bool
  | .powerOn _ => false
  | .nodeFrameTime => false
  | .inputFrameTime _ _ => false
  | .ack _ _ _ _ => false
  | .answer _ => false
  | .hold _ => false
  | .resume _ => false
  | .clear _ => false
  | .recall _ _ => false
  | .cancel _ => false
  | .inputDown _ => true
  | .inputUp _ => true
  | .followActive => true
  | .switchoverHoldEnd => true
  | .superframeBoundary => true
  | .settle _ => true
  | .reversalEnd _ => true
  | .wiringReversedToggle _ => true
  | .uplinkFrame _ => false
  | .pliReady _ => true
  | .pliLossTimeout _ => true
  | .accessReply => true
  | .accessSent => true
  | .accessTimeout => true
  | .agcBlock _ => true
  | .missingCountFull _ => true
  | .claimTimeout _ => true
  | .releaseTimeout _ => true
  | .assignmentExpiry _ => true
  | .withdrawal => true
  | .ageing _ => true
  | .parkTimeout _ => true
  | .decoderWaitExpiry _ => true
  | .identityWindowExpiry _ => true
  | .testPoint => true
  | .testDischargeEnd => true
  | .testChargeEnd => true
  | .testResultTimeout => true
  | .cadencePhaseEnd _ => true
  | .reportSend => true
  | .confirmTimeout _ => true
  | .identify _ => false
  | .readWords _ => false
  | .readGroup _ => false
  | .writeWords _ => false
  | .commit _ => false
  | .bankSwitch => true
  | .discard _ => false
  | .readCounters _ => false
  | .clearCounters _ => false
  | .clearExcursion _ => false
  | .testLine _ => false
  | .pliAccess _ => false
  | .restartHighway _ => false
  | .highwayRestartingEnd => true
  | .highwaySettlingEnd => true
  | .restartNode _ => false
  | .bypass _ => false
  | .leaveBypass _ => false
  | .replyWrite => true
  | .badRequest _ _ => false

/-- A step that follows from the part's own counts is due; a row that comes from outside never is. -/
def State.isDue (s : State) : Instr → Bool
  | .powerOn _ => false
  | .nodeFrameTime => false
  | .inputFrameTime _ _ => false
  | .ack _ _ _ _ => false
  | .answer _ => false
  | .hold _ => false
  | .resume _ => false
  | .clear _ => false
  | .recall _ _ => false
  | .cancel _ => false
  | .inputDown i => (s.health i).up && (s.health i).downDue
  | .inputUp i => decide ((s.health i).up = false) && decide (atLeastOne s.sect.upHold ≤ (s.health i).upCount)
  | .followActive => s.followTo.isSome
  | .switchoverHoldEnd => s.prc.holdEndDue
  | .superframeBoundary => s.rif.clock.boundaryDue
  | .settle p => decide (allPorts.find? s.settles = some p)
  | .reversalEnd p => s.reversalOver p
  | .wiringReversedToggle p => decide ((s.line p).polarity = Config.polarityBoundaries)
  | .uplinkFrame _ => false
  | .pliReady i => (s.pli i).returns
  | .pliLossTimeout i => decide (allPlis.find? s.lossDue = some i)
  | .accessReply => (s.hwc.access.bind Access.reply).isSome
  | .accessSent => s.accessToSend.isSome
  | .accessTimeout => s.hwc.access.any Access.over
  | .agcBlock c => decide ((s.voice c).block = Config.blockSamples) && s.sect.agcEnable
  | .missingCountFull c => s.missingFull c
  | .claimTimeout c => decide ((s.chan c).state = .claimed) && decide ((s.chan c).timer = 0)
  | .releaseTimeout c => decide ((s.chan c).state = .releasing) && decide ((s.chan c).timer = 0)
  | .assignmentExpiry c => decide ((s.chan c).state = .bound) && decide ((s.chan c).port = none) && decide ((s.chan c).timer = 0)
  | .withdrawal => s.withdrawalDue
  | .ageing p => decide (s.ccl.queue.find? s.ages = some p)
  | .parkTimeout p => decide (allPorts.find? s.parks = some p)
  | .decoderWaitExpiry p => decide ((s.idd.waiting.find? s.waitOver).map Waiter.port = some p)
  | .identityWindowExpiry d => decide ((s.decoder d).port.isSome) && decide ((s.decoder d).state ≠ .free) &&
      decide (s.sect.windowUsed ≤ (s.decoder d).window)
  | .testPoint => s.lsv.testPointDue
  | .testDischargeEnd => decide (s.lsv.testPhase = .discharge) && decide (s.lsv.phaseCount = 0)
  | .testChargeEnd => decide (s.lsv.testPhase = .charge) && decide (s.lsv.phaseCount = 0)
  | .testResultTimeout => decide (s.lsv.testPhase = .resultWait) && decide (Config.resultBoundaries ≤ s.lsv.phaseCount)
  | .cadencePhaseEnd p => (s.cadence p).ends
  | .reportSend => s.sendable.isSome
  | .confirmTimeout k => s.confirmOver k
  | .identify _ => false
  | .readWords _ => false
  | .readGroup _ => false
  | .writeWords _ => false
  | .commit _ => false
  | .bankSwitch => s.tbs.switching && s.tbs.switchDue
  | .discard _ => false
  | .readCounters _ => false
  | .clearCounters _ => false
  | .clearExcursion _ => false
  | .testLine _ => false
  | .pliAccess _ => false
  | .restartHighway _ => false
  | .highwayRestartingEnd => decide (s.hwc.state = .restarting) && decide (s.hwc.phaseCount = 0)
  | .highwaySettlingEnd => decide (s.hwc.state = .settling) && decide (s.hwc.phaseCount = 0)
  | .restartNode _ => false
  | .bypass _ => false
  | .leaveBypass _ => false
  | .replyWrite => s.mga.emptyStart.isSome && s.mga.buffer.isSome && s.mga.writing.isNone
  | .badRequest _ _ => false

/-- The steps that can come due, but for confirm timers: those of the node. -/
def nodeConsequences : List Instr :=
  [.superframeBoundary, .inputDown .pin, .inputDown .sin, .inputUp .pin, .inputUp .sin, .followActive, .bankSwitch, .testPoint,
   .testDischargeEnd, .testChargeEnd, .testResultTimeout, .switchoverHoldEnd, .withdrawal, .accessReply,
   .accessTimeout, .accessSent, .highwayRestartingEnd, .highwaySettlingEnd, .reportSend, .replyWrite]

/-- Those of a port. -/
def portConsequences (p : PortNo) : List Instr :=
  [.settle p, .reversalEnd p, .wiringReversedToggle p, .ageing p, .parkTimeout p, .decoderWaitExpiry p,
   .cadencePhaseEnd p]

/-- Those of a trunk channel. -/
def chanConsequences (c : ChanNo) : List Instr :=
  [.agcBlock c, .missingCountFull c, .claimTimeout c, .releaseTimeout c, .assignmentExpiry c]

/-- Those of a PLI position. -/
def pliConsequences (i : PliNo) : List Instr := [.pliReady i, .pliLossTimeout i]

/-- The steps that can come due in a state. -/
def consequences (s : State) : List Instr :=
  List.flatten
    [nodeConsequences, allPorts.flatMap portConsequences, allChans.flatMap chanConsequences,
     allPlis.flatMap pliConsequences, allDecoders.map Instr.identityWindowExpiry,
     s.sgu.reports.map (fun e => Instr.confirmTimeout e.key)]

/-- The steps due in a state. -/
def State.dueSteps (s : State) : List Instr := (consequences s).filter s.isDue

/-- No step is due: the part waits for a command from outside. -/
def State.quiet (s : State) : Bool := s.dueSteps.isEmpty

/-! ### Invariants of the whole part -/

/-- Both banks keep their canonical form, with no bit outside the fields (R156). -/
def State.tablesKept (s : State) : Bool := s.tbs.shadow.wf && s.tbs.active.wf

/-- Every counter stands at 65535 or below (Introduction 5). -/
def State.countersKept (s : State) : Prop := ∀ k : Fin 51, s.counters[k] ≤ 65535

/-- Every filtered current lies in −999 to +999 dmA (R2). -/
def State.currentsKept (s : State) : Prop :=
  ∀ p : PortNo, -999 ≤ (s.line p).filtered ∧ (s.line p).filtered ≤ 999

/-- At most one channel map entry is CLAIMED (R67). -/
def State.oneClaim (s : State) : Prop :=
  ∀ c d : ChanNo, (s.chan c).state = .claimed → (s.chan d).state = .claimed → c = d

/-- The closing list holds at most 8 entries (R44). -/
def State.closingKept (s : State) : Prop := s.ccl.closing.length ≤ Config.closingCapacity

/-- Every closing entry was numbered before the next one to be formed, so no new CLOSE entry takes the key of an old
one (R86). -/
def State.closingsNumbered (s : State) : Prop := ∀ e ∈ s.ccl.closing, e.entry < s.ccl.nextEntry

/-- A port stands in the wait queue if and only if its record is WAITING, and it stands there once (R45). -/
def State.queueKept (s : State) : Prop :=
  s.ccl.queue.Nodup ∧ ∀ p : PortNo, p ∈ s.ccl.queue ↔ (s.record p).state = .waiting

/-- The report list holds at most one entry for each type and key, and every entry of the first tier stands
before every entry of the second (R86). -/
def State.reportsKept (s : State) : Prop :=
  (s.sgu.reports.map (fun e => e.key)).Nodup ∧
    s.sgu.reports.Pairwise (fun a b => isFirstTier b.key = true → isFirstTier a.key = true)

/-- A record names a channel in the attached states and in no other, and the channel it names is BOUND and
attached to its port; no other entry is (R48). -/
def State.bindingsKept (s : State) : Prop :=
  (∀ p : PortNo, (s.record p).state.attached = (s.record p).channel.isSome) ∧
    ∀ (p : PortNo) (c : ChanNo),
      (s.record p).channel = some c ↔ (s.chan c).state = .bound ∧ (s.chan c).port = some p

/-- A record that is not IDLE stands on an enabled port that is not under test, the tested port is frozen by
TEST, no test runs in BYPASS, and a call that has been offered, rung or cleared is announced (R1, R7, R17,
R42, R47, R58, R61). -/
def State.callsKept (s : State) : Prop :=
  (∀ p : PortNo, (s.record p).state ≠ .idle → (s.post p).enabled = true ∧ s.lsv.testPort ≠ some p) ∧
    (∀ p : PortNo, s.lsv.testPort = some p → (s.line p).causes.test = true) ∧
    (s.inBypass = true → s.lsv.testPort = none) ∧
    ∀ p : PortNo, (s.record p).state.attached = true ∨ (s.record p).state = .cleared →
      (s.record p).announced = true

/-- CLAIMED and BOUND entries together never number more than 8 (R67). -/
def State.heldKept (s : State) : Prop := s.heldChannels ≤ 8

/-- Outside BYPASS the protection state is that of the two conditions, and the service input the one the state
names; in THROUGH either (R137). -/
def State.protKept (s : State) : Prop :=
  s.inBypass = false →
    s.prc.state = protState s.prc.pinHealth.up s.prc.sinHealth.up ∧
      (s.prc.state = .through → s.prc.service ≠ none) ∧
      (s.prc.state = .wrapA → s.prc.service = some .sin) ∧
      (s.prc.state = .wrapB → s.prc.service = some .pin) ∧
      (s.prc.state = .isolated → s.prc.service = none)

/-- The clock follows the service input, and with none named its reference is absent (R129). -/
def State.clockKept (s : State) : Prop :=
  s.rif.clock.reference = s.prc.service ∧ (s.prc.service ≠ none → s.rif.clock.following = true)

/-- Every port's cadence role is that of its call state (R100). -/
def State.rolesKept (s : State) : Prop := ∀ p : PortNo, (s.cadence p).role = roleOf (s.record p).state

/-- A line is driven RING, REVERSED, DISCHARGE or CHARGE only with its reason (R13). -/
def State.drivesKept (s : State) : Prop := ∀ p : PortNo,
  ((s.line p).drive = .ring → (s.record p).state = .ringing ∧ (s.line p).brake = false ∧
    (s.cadence p).role = .ring ∧ (s.cadence p).phase = .on) ∧
  ((s.line p).drive = .reversed → (s.record p).state = .connected ∨ (s.record p).state = .held) ∧
  ((s.line p).drive = .discharge → s.lsv.testPort = some p ∧ s.lsv.testPhase = .discharge) ∧
  ((s.line p).drive = .charge → s.lsv.testPort = some p ∧ s.lsv.testPhase = .charge)

/-- The tables in force, and those a pending switch will bring into force, pass the commit check, and the
identity index is that of the active post table (R159, R162). -/
def State.soundKept (s : State) : Prop :=
  validate s.tbs.active = none ∧ (s.tbs.switching = true → validate s.tbs.shadow = none) ∧
    s.tbs.index = identityIndex s.tbs.active

/-- A sample as the part sends it: −8191 to +8191 (R117). -/
def sampleOk (x : Int) : Prop := -8191 ≤ x ∧ x ≤ 8191

/-- Every sample held for a post or for the trunk is one the part may send (R117). -/
def State.voiceKept (s : State) : Prop :=
  (∀ c : ChanNo, sampleOk (s.voice c).lastDown) ∧ (∀ p : PortNo, sampleOk s.vcn.uplink[p]) ∧
    (∀ p : PortNo, sampleOk s.hwc.lastVoice[p]) ∧
    ∀ d, s.hwc.downlink = some d → ∀ p : PortNo, sampleOk d.voice[p]

/-- In BYPASS the node takes no part in calls: no call, no channel, no report, no flag, no service input and
no hold (R63, R80, R98, R141). -/
def State.bypassKept (s : State) : Prop :=
  s.inBypass = true →
    (∀ p : PortNo, (s.record p).state = .idle) ∧ (∀ c : ChanNo, (s.chan c).state = .none) ∧
      s.ccl.queue = [] ∧ s.ccl.closing = [] ∧ s.sgu.reports = [] ∧ s.sgu.flags = {} ∧
      s.prc.service = none ∧ s.prc.hold = 0

/-! ### What a command changes -/

/-- The frame an output is sending. -/
def State.outFrame (s : State) (o : RingOutput) : Option Frame := (s.out o).frame

/-- From `s` to `t` each counter named rises by 1, stopping at 65535, and no other counter moves. -/
def State.counted (s t : State) (l : List Counter) : Prop :=
  ∀ k : Counter, t.count k = if k ∈ l then satSucc (s.count k) else s.count k

/-- A count raised by 1 for each element of a list, stopping at 65535. -/
def raisedBy {α : Type} (l : List α) (n : Nat) : Nat := l.foldl (fun n _ => satSucc n) n

/-- From `s` to `t` IDD took a request to identify port `p`: none where its post has no identity fitted, or it holds a
decoder or a place already; else the lowest FREE decoder is attached to it, in HUNT with nothing known of the line, or
with none FREE the port joins the tail of the wait list with count 0 (R25, R28). -/
def State.identityAsked (s t : State) (p : PortNo) (fitted : Bool) : Prop :=
  (fitted = false ∨ s.decoderOf p ≠ none ∨ s.awaitsDecoder p = true → t.idd = s.idd) ∧
  (fitted = true → s.decoderOf p = none → s.awaitsDecoder p = false →
    (∀ d : DecNo, (s.decoder d).state = .free → (∀ e : DecNo, e.val < d.val → (s.decoder e).state ≠ .free) →
      t.decoder d =
        { state := .hunt, port := some p, previous := none, run := 0, index := 0, bits := [], failed := 0,
          startSeen := false, window := 0 } ∧
      (∀ e, e ≠ d → t.decoder e = s.decoder e) ∧ t.idd.waiting = s.idd.waiting) ∧
    ((∀ d, (s.decoder d).state ≠ .free) →
      t.idd = { s.idd with waiting := s.idd.waiting ++ [{ port := p, count := 0 }] }))

/-- From `s` to `t` decoder `d` was released: it goes at once to the head of the wait list, which leaves the list, or
with none waiting is FREE; no other decoder changes (R27, R28, R36). -/
def State.decoderFreed (s t : State) (d : DecNo) : Prop :=
  (s.idd.waiting = [] → t.decoder d = {} ∧ t.idd.waiting = []) ∧
  (∀ w rest, s.idd.waiting = w :: rest →
    t.decoder d = { state := .hunt, port := some w.port } ∧ t.idd.waiting = rest) ∧
  ∀ e, e ≠ d → t.decoder e = s.decoder e

/-- An entry stands LISTED in the report list with no sent echo, as a listing leaves it (R87). -/
def State.listedAfresh (s : State) (k : EntryKey) : Prop :=
  ∃ e, entryOf s.sgu.reports k = some e ∧ e.status = .listed ∧ e.echo = none

/-- From `s` to `t` SGU was asked to list one entry and nothing else: outside BYPASS it is listed and every other entry
stays; in BYPASS nothing of SGU changes (R87, R98). -/
def State.listsOnly (s t : State) (k : EntryKey) : Prop :=
  (s.inBypass = false →
    t.listedAfresh k ∧ (∀ j, j ≠ k → entryOf t.sgu.reports j = entryOf s.sgu.reports j) ∧
      t.sgu = { s.sgu with reports := t.sgu.reports }) ∧
  (s.inBypass = true → t.sgu = s.sgu)

/-- From `s` to `t` the record of port `p` took an identity outcome: where it was PENDING on an announced record its
CALL entry is listed; else SGU is told nothing (R37, R42). -/
def State.outcomeTold (s t : State) (p : PortNo) : Prop :=
  ((s.record p).identity = some .pending → (s.record p).announced = true → s.listsOnly t (.call p)) ∧
  ((s.record p).identity ≠ some .pending ∨ (s.record p).announced = false → t.sgu = s.sgu)

/-- The closing entry that CCL forms for the call of port `p` as the `n`th (R43). -/
def State.closingEntry (s : State) (n : Nat) (p : PortNo) (why : CloseReason) : ClosingEntry :=
  { entry := n, ref := (s.record p).ref, port := p, reason := why, channel := (s.record p).lastChannel,
    duration := min ((s.ccl.superframes - (s.record p).createdAt).toNat / 500) 65535,
    location := (s.post p).location }

/-- A record in a live state: neither IDLE nor PARKED (3.1). -/
def State.live (s : State) (p : PortNo) : Bool :=
  decide ((s.record p).state ≠ .idle) && decide ((s.record p).state ≠ .parked)

/-- The closing entries of the live calls of some ports, one after the other (R61, R62). -/
def State.closings (s : State) (why : CloseReason) (ports : List PortNo) : List ClosingEntry :=
  (ports.filter s.live).mapIdx (fun k p => s.closingEntry (s.ccl.nextEntry + k) p why)

/-- What a closing list of eight places holds of its entries, oldest first (R43, R44). -/
def lastEight (l : List ClosingEntry) : List ClosingEntry := l.drop (l.length - 8)

/-- The record of port `p` as a close leaves it: IDLE, its reference, classes, identity fields, latched entry, channel
and last channel absent, its flags clear and its time in state 0 (R40, R43). R43 names neither created-at nor the age
counter, so both stay (DEDUCED, log entry 15). -/
def State.closedRecord (s : State) (p : PortNo) (again : Option (BitVec 32)) : CallRecord :=
  { state := .idle, ref := none, baseClass := none, effClass := none, repeated := false, reest := false,
    announced := false, channel := none, lastChannel := none, identity := none, code := none, matched := none,
    latched := none, time := 0, repeatUntil := again,
    age := (s.record p).age, createdAt := (s.record p).createdAt }

/-- From `s` to `t` the record of port `p` became IDLE with `again` as its repeat-until and every other field as a close
leaves it: its channel is RELEASING, its place in the queue and its CALL entry are gone, and no other record or entry
changed (R43, R74). -/
def State.callEnds (s t : State) (p : PortNo) (again : Option (BitVec 32)) : Prop :=
  t.record p = s.closedRecord p again ∧
  (∀ q, q ≠ p → t.record q = s.record q) ∧ t.ccl.queue = s.ccl.queue.filter (fun q => !decide (q = p)) ∧
  (∀ c, (s.record p).channel = some c →
    t.chan c = { state := .releasing, timer := atLeastOne s.sect.releaseTimeout } ∧ t.vcn.uplink[p] = 0) ∧
  (∀ c, (s.record p).channel ≠ some c → t.chan c = s.chan c) ∧ entryOf t.sgu.reports (.call p) = none

/-- From `s` to `t` one closing entry was formed for the call of port `p` and its CLOSE entry listed; a full
list lost its oldest entry, with that one's CLOSE entry (R43). -/
def State.oneClosed (s t : State) (p : PortNo) (why : CloseReason) : Prop :=
  let full := 8 ≤ s.ccl.closing.length
  t.ccl.closing =
    (if full then s.ccl.closing.drop 1 else s.ccl.closing) ++ [s.closingEntry s.ccl.nextEntry p why] ∧
  t.listedAfresh (.close s.ccl.nextEntry) ∧
  (∀ e, full → s.ccl.closing.head? = some e → e.entry ≠ s.ccl.nextEntry →
    entryOf t.sgu.reports (.close e.entry) = none) ∧
  s.counted t (if full then [.closesLost] else [])

/-- A port whose call loses its channel when the entries of a selection are dropped. -/
def State.loses (s : State) (sel : ChanEntry → Bool) (p : PortNo) : Bool :=
  match (s.record p).channel with
  | some c => sel (s.chan c)
  | none => false

/-- From `s` to `t` the entries of a selection were withdrawn: each BOUND one raised withdrawals, and CCL acted on the
calls that lost their channels. Each RINGING one is closed with CHANNEL-LOST, in ascending order of port, its closing
entry listed and its CALL entry gone; the CALL entry of each other one, if announced, is listed. A full closing list
lost its oldest entries, each with its CLOSE entry and a closes-lost. No other counter moved (R42, R43, R60, R73, R78). -/
def State.withdrawn (s t : State) (sel : ChanEntry → Bool) : Prop :=
  let ringing := fun (p : PortNo) => s.loses sel p && decide ((s.record p).state = .ringing)
  let closed := s.closings .channelLost (allPorts.filter ringing)
  let all := s.ccl.closing ++ closed
  let dropped := all.take (all.length - 8)
  (∀ p, ringing p = true →
    t.record p = s.closedRecord p (s.record p).repeatUntil ∧ entryOf t.sgu.reports (.call p) = none) ∧
  (s.inBypass = false → ∀ p, s.loses sel p = true → ringing p = false → (s.record p).announced = true →
    t.listedAfresh (.call p)) ∧
  (s.closingKept →
    t.ccl.closing = lastEight all ∧ t.count .closesLost = raisedBy dropped (s.count .closesLost)) ∧
  (s.closingKept → s.closingsNumbered →
    (s.inBypass = false → ∀ e ∈ closed, e ∉ dropped → t.listedAfresh (.close e.entry)) ∧
    ∀ e ∈ dropped, entryOf t.sgu.reports (.close e.entry) = none) ∧
  t.count .withdrawals =
    raisedBy (allChans.filter (fun c => sel (s.chan c) && decide ((s.chan c).state = .bound))) (s.count .withdrawals) ∧
  ∀ k, k ≠ .withdrawals → k ≠ .closesLost → t.count k = s.count k

/-- From `s` to `t` the calls that lose their channels by a selection are re-established at the head of the
queue, oldest first, RINGING ones are closed, and every other record stays (R60). -/
def State.reestablished (s t : State) (sel : ChanEntry → Bool) : Prop :=
  let front := t.ccl.queue.take (t.ccl.queue.length - s.ccl.queue.length)
  (∀ p, s.loses sel p = true → (s.record p).state ≠ .ringing →
    t.record p = { s.record p with
      state := .waiting, channel := none, reest := true, effClass := some 0, age := 0, time := 0 }) ∧
  (∀ p, s.loses sel p = true → (s.record p).state = .ringing →
    t.record p = s.closedRecord p (s.record p).repeatUntil) ∧
  (∀ p, s.loses sel p = false → t.record p = s.record p) ∧
  t.ccl.queue = front ++ s.ccl.queue ∧
  (∀ p, p ∈ front ↔ s.loses sel p = true ∧ (s.record p).state ≠ .ringing) ∧
  front.Pairwise (fun a b => s.callAge b < s.callAge a ∨ s.callAge b = s.callAge a ∧ a.val < b.val)

/-! ### Cells, messages and replies cut off -/

/-- From `s` to `t` a cell being consumed or written ended at once, spoiled: a consumed one dropped its bytes and counts
in bad-commands, a written one in reports-spoiled (R82, R84, R90). A REPORT cell for which no report was composed does not
count (DESIGN CHOICE, log entry 9). -/
def State.cellCut (s t : State) : Prop :=
  (s.sgu.role = .consume ∨ s.sgu.role = .report →
    t.sgu.role = .none ∧ t.sgu.command = [] ∧ t.sgu.report = none) ∧
  t.count .badCommands = (if s.sgu.role = .consume then satSucc (s.count .badCommands) else s.count .badCommands) ∧
  t.count .reportsSpoiled =
    if s.sgu.role = .report ∧ s.sgu.report ≠ none then satSucc (s.count .reportsSpoiled) else s.count .reportsSpoiled

/-- From `s` to `t` the assembly in progress ended without being valid, counted where it shows a REQUEST to this node,
and the next waits for a field of frame number 0; a reply in writing ended, counted (R166, R168). -/
def State.messageCut (s t : State) : Prop :=
  let a := s.mga.assembly
  let request := a.bytes.getD 0 0 = 1 ∧ a.bytes.getD 1 0 = s.straps.zeroExtend 8 ∧ 2 ≤ a.bytes.length
  t.mga.assembly = { next := 0, bytes := [], spoiled := false } ∧ t.mga.writing = none ∧ t.mga.emptyStart = none ∧
  t.count .messagesSpoiled =
    (if 0 < a.next ∧ a.next < 16 ∧ request then satSucc (s.count .messagesSpoiled) else s.count .messagesSpoiled) ∧
  t.count .repliesSpoiled =
    if s.mga.writing ≠ none then satSucc (s.count .repliesSpoiled) else s.count .repliesSpoiled

/-- From `s` to `t` PRC's choice of a service input took its effect on the streams that pass: a change of it cuts the
cell, the message and the reply, and leaves the reply buffer and what waits to be acted on as they were; without a change
all of them go on. The report list changes in its NODE entry alone (R82, R90, R166, R168). -/
def State.serviceTold (s t : State) : Prop :=
  (t.prc.service ≠ s.prc.service →
    s.cellCut t ∧ s.messageCut t ∧ t.sgu.emptyCell = none ∧ t.sgu.dueCommand = s.sgu.dueCommand ∧
      t.mga.buffer = s.mga.buffer ∧ t.mga.taken = s.mga.taken) ∧
  (t.prc.service = s.prc.service →
    t.mga = s.mga ∧ t.sgu = { s.sgu with reports := t.sgu.reports } ∧
      ∀ k ∈ [Counter.badCommands, .reportsSpoiled, .messagesSpoiled, .repliesSpoiled], t.count k = s.count k) ∧
  ∀ k, k ≠ .node → entryOf t.sgu.reports k = entryOf s.sgu.reports k

/-! ### Layouts -/

/-- Fields laid side by side, the first in the highest bits, each a width and a value of which that many low bits are
written (chapter 13). -/
def laid (width : Nat) (fields : List (Nat × Nat)) : BitVec width :=
  BitVec.ofNat width (fields.foldl (fun n x => n * 2 ^ x.1 + x.2 % 2 ^ x.1) 0)

/-- The parts of the state: the twelve blocks, the straps, the counters and the queue of commands. -/
inductive Block where
  | straps | lsv | idd | ccl | cha | sgu | tgn | vcn | rif | prc | hwc | tbs | mga | counters | pending
  deriving DecidableEq, Repr

/-- A part of the state reads the same in two states. -/
def State.sameIn (s t : State) : Block → Bool
  | .straps => decide (t.straps = s.straps)
  | .lsv => decide (t.lsv = s.lsv)
  | .idd => decide (t.idd = s.idd)
  | .ccl => decide (t.ccl = s.ccl)
  | .cha => decide (t.cha = s.cha)
  | .sgu => decide (t.sgu = s.sgu)
  | .tgn => decide (t.tgn = s.tgn)
  | .vcn => decide (t.vcn = s.vcn)
  | .rif => decide (t.rif = s.rif)
  | .prc => decide (t.prc = s.prc)
  | .hwc => decide (t.hwc = s.hwc)
  | .tbs => decide (t.tbs = s.tbs)
  | .mga => decide (t.mga = s.mga)
  | .counters => decide (t.counters = s.counters)
  | .pending => decide (t.pending = s.pending)

/-- From `s` to `t` nothing changes outside the parts named. -/
def State.changesOnly (s t : State) (l : List Block) : Prop := ∀ b : Block, b ∉ l → s.sameIn t b = true

/-- The counters that rise when a request is executed and its reply placed: requests-taken, and replies-lost
where a reply was HELD (R167, R168). -/
def State.replyCounts (s : State) : List Counter :=
  .requestsTaken :: (if s.mga.buffer.isSome then [.repliesLost] else [])

/-- The reply buffer holds a composed reply (R168). -/
def State.replied (s t : State) (kind : Byte) (r : Request) (res : Result) (data : List Byte) : Prop :=
  t.mga.buffer = some (s.reply kind r res data)

end Sys2Proof.Machine
end

