-- ==== Sys2Proof/WellFormed.lean ====
section
/-! DEFINITION. Which commands are well formed. The operand types hold every port, channel, position and
byte in its range; two bounds are left to check here. A command that is not well formed can reach the
part from no connection of it; `exec` is total on it all the same. -/

namespace Sys2Proof

/-- The node number the straps read is free (R144 gives a meaning to all 64 readings); an arrival's
first byte stands within one frame time of the expected mark, and its bytes reach at most to the end of a frame
that begins at the last byte position of that frame time (R120); BAD_REQUEST names a request type outside the fifteen
(R167, 13.4). -/
def Instr.wellFormed : Instr → Bool
  | .inputFrameTime _ (some a) => decide (a.shift < Config.frameBits) && decide (a.bytes.length ≤ 183)
  | .badRequest k _ => decide (k.toNat = 0 ∨ 15 < k.toNat)
  | _ => true

end Sys2Proof
end

