-- ==== Sys2Proof/Certificates/Slice0/Obligations.lean ====
section
/-! DEFINITION. The statements about the part, one definition each, listed in OBLIGATIONS.json. -/

open Sys2Proof Sys2Proof.Machine

/-- One step is one command, whole and indivisible. The queue, and idling on an empty one, are the model's (log entry 2). -/
def Obligations.StepRunsTheFrontCommand : Prop :=
  ∀ s : State,
    (∀ (c : Instr) (rest : List Instr),
      s.pending = c :: rest → step s = exec c { s with pending := rest }) ∧
    (s.pending = [] → step s = .next s)

/-- The table's steps are each whole. The model's choices: the queue of commands, which none of them touches and POWER_ON keeps (log entry 2); that a row which is not due answers the state it found (log entry 3); and that an ill-formed command, which no connection can bring, answers a next state as well (log entry 28). -/
def Obligations.EveryCommandCompletes : Prop :=
  ∀ (c : Instr) (s : State), ∃ t, exec c s = .next t ∧ t.pending = s.pending

/-- The power-on tables of the chapters (R24, R38, R63, R81, R98, R108, R119, R134, R145, R155, R165, R173). The model's choices: the queue of commands is kept (log entry 2); where no rule gives a field of a decoder or a record its value (a decoder's phase, a record's created-at) it is the one log entry 4 names. -/
def Obligations.PowerOnStartsEveryBlock : Prop :=
  ∀ (s : State) (straps : BitVec 6),
    ∃ t, exec (.powerOn straps) s = .next t ∧ t.straps = straps ∧ t.pending = s.pending ∧
      (∀ p, (t.line p).filtered = 0 ∧ (t.line p).settled = .unknown ∧ (t.line p).candidate = none ∧
        (t.line p).debounce = 0 ∧ (t.line p).reversal = 0 ∧ (t.line p).polarity = 0 ∧
        (t.line p).causes = { pli := true, highway := true } ∧ (t.line p).drive = .normal ∧
        (t.line p).excHigh = false ∧ (t.line p).excLow = false ∧ (t.line p).brake = false ∧
        (t.line p).faults = { pliAbsent := true }) ∧
      (t.lsv.testPhase = .idle ∧ t.lsv.testPort = none ∧ t.lsv.schedule = 0 ∧ t.lsv.pointer = 31 ∧
        t.lsv.lastTest = none) ∧
      (∀ d, t.decoder d = {}) ∧ t.idd.waiting = [] ∧
      (∀ p, t.record p = {}) ∧ t.ccl.superframes = 0 ∧ t.ccl.refCounter = 0 ∧ t.ccl.queue = [] ∧
      t.ccl.closing = [] ∧
      (∀ c, t.chan c = {}) ∧ t.cha.holdoff = 0 ∧
      (∀ p, t.cadence p = {}) ∧
      (∀ c, (t.voice c).gain = 32 ∧ (t.voice c).peak = 0 ∧ (t.voice c).block = 0 ∧
        (t.voice c).lastDown = 0 ∧ (t.voice c).missing = 0 ∧ (t.voice c).tally = 0) ∧
      (∀ p : PortNo, t.vcn.uplink[p] = 0) ∧
      (∀ i, (t.input i).rx = .search ∧ (t.input i).lastClass = .lost ∧ (t.input i).lastMarker = none ∧
        (t.input i).store = none) ∧
      (t.rif.clock.following = false ∧ t.rif.clock.number = 0 ∧ t.rif.clock.superframe = 0 ∧
        t.rif.clock.reference = none) ∧
      (∀ i, t.health i = { up := false, miss := 8, upCount := 0, active := 0, idle := 16 }) ∧
      t.prc.service = none ∧ t.prc.hold = 0 ∧
      t.hwc.state = .restarting ∧ t.hwc.phaseCount = 8 ∧ t.hwc.access = none ∧
      (∀ i, (t.pli i).ready = false ∧ (t.pli i).readyCount = 0 ∧ (t.pli i).lossCount = 0 ∧
        (t.pli i).lossReported = false ∧ (t.pli i).status = {}) ∧
      (∀ tb k, k < tb.size → t.tbs.shadow.word tb k = defaultWord (tb.base + k) ∧
        t.tbs.active.word tb k = defaultWord (tb.base + k)) ∧
      t.tbs.switching = false ∧ t.tbs.index = [] ∧ t.mga.buffer = none ∧ t.mga.writing = none ∧
      (∀ k, t.count k = 0) ∧ t.sgu.role = .none ∧ t.sgu.cellsTaken = 0 ∧
      (straps = 0 ∨ straps = 63 →
        t.prc.state = .bypass ∧ t.prc.cause = some .straps ∧ t.sgu.reports = []) ∧
      (straps ≠ 0 ∧ straps ≠ 63 →
        t.prc.state = .isolated ∧ t.prc.cause = none ∧ t.sgu.reports = [{ key := .node }] ∧
        t.sgu.flags = { restarted := true })

/-- Where the invariants start. That State.reset has the straps reading 1 is the model's choice (log entry 1). -/
def Obligations.PowerOnMeetsTheInvariants : Prop :=
  State.reset = State.powerOn resetStraps ∧
    ∀ straps : BitVec 6,
      let s := State.powerOn straps
      s.tablesKept = true ∧ s.soundKept ∧ s.countersKept ∧ s.currentsKept ∧ s.oneClaim ∧ s.heldKept ∧
        s.closingKept ∧ s.queueKept ∧ s.reportsKept ∧ s.bindingsKept ∧ s.callsKept ∧ s.rolesKept ∧
        s.drivesKept ∧ s.voiceKept ∧ s.bypassKept ∧ s.protKept ∧ s.clockKept ∧ s.closingsNumbered

/-- The consequence rows act only where their condition stands (log entry 3). -/
def Obligations.StepsNotDueChangeNothing : Prop :=
  ∀ (c : Instr) (s : State), isConsequence c = true → s.isDue c = false → exec c s = .next s

/-- R156: bits that no field occupies are stored as 0; the canonical form is the model's. R159: the checks hold from power-on, and every switch brings in tables that have passed them. R162: the index changes only at a switch. -/
def Obligations.TablesKeepTheirFormAndStaySound : Prop :=
  ∀ s t : State, step s = .next t →
    (s.tablesKept = true → t.tablesKept = true) ∧ (s.soundKept → t.soundKept)

/-- R82, R84 and R90 for the cell, R166 and R168 for the message. The model's own: a part out of its order raises next part in every processed frame, also one that begins no node frame time (DESIGN CHOICE, log entry 40); a REPORT cell for which none was composed is not counted as spoiled (DESIGN CHOICE, log entry 9); what entry to BYPASS leaves of the command bytes, and that a complete command not yet acted on goes with them (DESIGN CHOICE, log entry 42). -/
def Obligations.CellsAndMessagesAreCutOff : Prop :=
  (∀ (s : State) (i : RingInput) (f : Frame), frameNumber f % 4 ≠ 0 →
    let g := s.sgu
    let r := s.sguFrame i f
    (g.role = .none ∨ g.role = .pass → r = (s, f)) ∧
    (g.role = .consume → frameNumber f ≠ 4 * g.cell + g.nextPart →
      r.2 = f ∧
        (g.nextPart < 3 →
          r.1.sgu = { g with spoiled := true, nextPart := g.nextPart + 1 } ∧ s.changesOnly r.1 [.sgu]) ∧
        (3 ≤ g.nextPart →
          r.1.sgu =
            { g with spoiled := true, nextPart := g.nextPart + 1, role := .none, command := [], report := none } ∧
          s.counted r.1 [.badCommands] ∧ s.changesOnly r.1 [.sgu, .counters]))) ∧
  (∀ (s : State) (i : RingInput) (f : Frame), frameNumber f % 4 = 0 →
    let g := s.sgu
    let r := s.sguFrame i f
    r.1.sgu.cell = frameNumber f / 4 ∧ r.1.sgu.nextPart = 1 ∧ r.1.sgu.spoiled = false ∧
      (r.1.sgu.role = .consume → r.1.sgu.command = signalOf f) ∧
      (g.role = .consume ∨ g.role = .report →
        r.1.sgu.report = none ∧ (r.1.sgu.role ≠ .consume → r.1.sgu.command = [])) ∧
      r.1.sgu.dueCommand = g.dueCommand ∧ r.1.sgu.reports = g.reports ∧ r.1.sgu.flags = g.flags ∧
      r.1.sgu.cellsTaken = g.cellsTaken ∧
      s.counted r.1
        (match g.role with
          | .consume => [.badCommands]
          | .report => if g.report = none then [] else [.reportsSpoiled]
          | .none => []
          | .pass => []) ∧
      s.changesOnly r.1 [.sgu, .counters]) ∧
  ∀ (s : State) (r : Request),
    (s.inBypass = false → (∀ p, (s.record p).state = .idle) ∨ r.force = true →
      ∃ t, exec (.bypass r) s = .next t ∧ s.cellCut t ∧ s.messageCut t ∧ t.sgu.role = .none ∧
        t.sgu.command = [] ∧ t.sgu.emptyCell = none ∧ t.sgu.dueCommand = none) ∧
    (s.inBypass = true → s.prc.cause = some .request →
      ∃ t, exec (.leaveBypass r) s = .next t ∧ s.messageCut t)

/-- Introduction 5: a counter stops at 65535. R2: F lies in −999 to +999 dmA. R117: samples sent lie in −8191 to +8191. R67: at most one CLAIMED entry, and CLAIMED and BOUND together at most 8. R44: the closing list holds at most 8 entries. The numbers by which the report list names closing entries are the model's. -/
def Obligations.CountsSamplesAndListsStayInBounds : Prop :=
  ∀ s t : State, step s = .next t →
    (s.countersKept → t.countersKept) ∧ (s.currentsKept → t.currentsKept) ∧ (s.voiceKept → t.voiceKept) ∧
    (s.oneClaim → t.oneClaim) ∧ (s.heldKept → t.heldKept) ∧ (s.closingKept → t.closingKept) ∧
    (s.closingsNumbered → t.closingsNumbered)

/-- R156 for a table; R164 and 13.7 for the views, R174 for absent fields and for the bits no field occupies. The model's own: the absent position in the wait queue (DESIGN CHOICE, log entry 12), and what words 17, 22 and 23 of the node status view show beside an absent access (DESIGN CHOICE, log entry 32). -/
def Obligations.ReadsTakeTheirWordsFromBankOrView : Prop :=
  ∀ (s : State) (b : Bool),
    let absent := fun {n : Nat} (x : Option (Fin n)) => match x with | some k => k.val | none => 255
    let cls := fun (x : Option (Fin 4)) => match x with | some k => k.val | none => 0
    let entry := fun (k : EntryKey) => match entryOf s.sgu.reports k with
      | none => 0
      | some e => if e.status = .listed then 1 else 2
    let input := fun (x : Option RingInput) => match x with | some .pin => 0 | some .sin => 1 | none => 3
    (∀ tb k, s.readTarget (.table tb) b k = if b then s.tbs.active.word tb k else s.tbs.shadow.word tb k) ∧
    (∀ k : Counter, s.readTarget .counterView b k.wordNo.val = BitVec.ofNat 16 (s.count k)) ∧
    (∀ k, 51 ≤ k → s.readTarget .counterView b k = 0) ∧
    ([.testsPassed, .testsLow, .testsAborted, .idVerified, .idMismatch, .idMalformed, .idAbsent, .idUncheckedBusy,
      .idNotFitted, .idFailedBursts, .briefLifts, .staleCommands, .staleState, .closesLost, .forcedEnds, .claimsWon,
      .claimsLost, .claimTimeouts, .wastedWins, .numberConflicts, .withdrawals, .releaseTimeouts, .assignmentsRefused,
      .assignmentsExpired, .reportsSent, .reportsSpoiled, .relists, .commandsTaken, .badCommands, .staleAcks,
      .badFramesPin, .badFramesSin, .lostFramesPin, .lostFramesSin, .fillFramesPout, .fillFramesSout, .renumbers,
      .slips, .framesProcessed, .lossesPin, .lossesSin, .serviceChanges, .isolations, .pliLosses, .highwayRestarts,
      .pliTimeouts, .pliStrayReplies, .requestsTaken, .messagesSpoiled, .repliesLost, .repliesSpoiled]
        : List Counter).map (fun k => k.wordNo.val) = List.range 51 ∧
    (∀ p : PortNo,
      let w := fun (k : Nat) => s.readTarget .portStatus b (16 * p.val + k)
      let l := s.line p
      let r := s.record p
      let c := s.cadence p
      w 0 = BitVec.ofInt 16 l.filtered ∧
        w 1 = laid 16
          [(1, 0), (3, match l.drive with | .normal => 0 | .reversed => 1 | .ring => 2 | .discharge => 3 | .charge => 4),
           (2, 0), (2, match s.supervision p with | .normal => 0 | .frozen => 1 | .disabled => 2),
           (1, 0), (3, match l.candidate with | some x => x.code | none => 7), (1, 0), (3, l.settled.code)] ∧
        w 2 = laid 16
          [(8, l.debounce), (1, 0), (1, bit01 l.faults.pliSupply), (1, bit01 l.faults.feedLimit),
           (1, bit01 l.faults.pliAbsent), (1, bit01 l.faults.wiringReversed), (1, bit01 l.faults.insulationLow),
           (1, bit01 l.faults.short), (1, bit01 l.faults.cut)] ∧
        w 3 = laid 16
          [(1, bit01 l.brake), (1, bit01 l.excLow), (1, bit01 l.excHigh), (5, l.polarity), (1, 0), (3, l.reversal),
           (1, bit01 l.causes.highway), (1, bit01 l.causes.pli), (1, bit01 l.causes.reversal),
           (1, bit01 l.causes.test)] ∧
        w 4 = laid 16 [(4, 0), (4, r.state.code), (8, r.ref.getD 0)] ∧
        w 5 = laid 16
          [(1, bit01 (s.awaitsDecoder p)), (3, match s.decoderOf p with | some d => d.val | none => 7), (1, 0),
           (3, match r.identity with | some o => o.code | none => 7), (1, 0), (1, bit01 r.announced),
           (1, bit01 r.reest), (1, bit01 r.repeated), (2, cls r.baseClass), (2, cls r.effClass)] ∧
        w 6 = laid 16 [(8, absent r.channel), (8, absent r.matched)] ∧
        w 7 = (match r.code with | some n => BitVec.ofNat 16 n | none => 0xFFFF) ∧
        w 8 = laid 16
          [(4, 0), (2, entry (.fault p)), (2, entry (.call p)),
           (8, if p ∈ s.ccl.queue then s.ccl.queue.idxOf p else 255)] ∧
        w 9 = laid 16
          [(4, 0), (2, c.step), (2, match c.phase with | .none => 0 | .on => 1 | .off => 2 | .exhausted => 3),
           (4, match c.copy with | some x => x.number | none => 15), (1, 0),
           (3, match c.role with | .none => 0 | .queue => 1 | .ringback => 2 | .hold => 3 | .clear => 4 | .ring => 5)] ∧
        w 10 = laid 16 [(4, 0), (12, c.remaining)] ∧ w 11 = laid 16 [(8, 0), (8, c.repeatsLeft)] ∧
        ∀ k, 12 ≤ k → k < 16 → w k = 0) ∧
    (∀ c : ChanNo,
      let w := fun (k : Nat) => s.readTarget .channelMap b (8 * c.val + k)
      let e := s.chan c
      let v := s.voice c
      w 0 = laid 16
          [(6, 0), (2, match e.state with | .none => 0 | .claimed => 1 | .bound => 2 | .releasing => 3),
           (8, absent e.port)] ∧
        w 1 = BitVec.ofNat 16 e.timer ∧ w 2 = BitVec.ofNat 16 e.mismatch ∧
        w 3 = laid 16 [(1, 0), (7, v.gain), (2, 0), (6, v.block)] ∧ w 4 = BitVec.ofNat 16 v.peak ∧
        w 5 = BitVec.ofInt 16 v.lastDown ∧ w 6 = laid 16 [(11, 0), (5, v.missing)] ∧
        w 7 = BitVec.ofNat 16 v.tally) ∧
    let w := s.readTarget .nodeStatus b
    let receiver : InputPort → List (Nat × Nat) := fun x =>
      [(2, 0),
       (3, match x.lastMarker with | none => 0 | some .active => 1 | some .standby => 2 | some .ret => 3),
       (2, match x.lastClass with | .good => 0 | .bad => 1 | .lost => 2),
       (1, match x.rx with | .search => 0 | .track => 1)]
    let condition := fun (h : InputHealth) =>
      laid 16 [(1, bit01 h.up), (4, h.miss), (1, 0), (5, h.active), (5, h.idle)]
    let decoder := fun (d : DecNo) =>
      (2, match (s.decoder d).state with | .free => 0 | .hunt => 1 | .start => 2 | .bits => 3)
    let pli : PliNo → List (Nat × Nat) := fun i =>
      [(1, bit01 (s.pli i).ready), (2, 0), (1, bit01 (s.pli i).status.supply), (4, (s.pli i).status.feed.toNat)]
    s.ccl.superframes = w 0 ++ w 1 ∧
      w 2 = laid 16
        [(8, s.rif.clock.superframe), (1, 0), (2, input s.rif.clock.reference), (1, bit01 (!s.rif.clock.following)),
         (4, s.rif.clock.number)] ∧
      w 3 = laid 16 (receiver s.rif.sinPort ++ receiver s.rif.pinPort) ∧
      w 4 = condition s.prc.pinHealth ∧ w 5 = condition s.prc.sinHealth ∧
      w 6 = BitVec.ofNat 16 s.prc.pinHealth.upCount ∧ w 7 = BitVec.ofNat 16 s.prc.sinHealth.upCount ∧
      w 8 = laid 16
        [(1, 0), (2, match s.hwc.state with | .running => 0 | .restarting => 1 | .settling => 2),
         (1, bit01 s.tbs.switching), (2, 0),
         (2, match s.prc.cause with | none => 0 | some .request => 1 | some .straps => 2), (2, 0),
         (2, input s.prc.service), (1, 0), (3, s.prc.state.code)] ∧
      w 9 = BitVec.ofNat 16 s.prc.hold ∧
      w 10 = laid 16
        [(1, 0), (7, s.sgu.reports.length), (1, 0), (3, s.sgu.cellsTaken), (1, 0), (1, bit01 s.sgu.flags.bypassLeft),
         (1, bit01 s.sgu.flags.numberConflict), (1, bit01 s.sgu.flags.restarted)] ∧
      w 11 = laid 16
        [(3, 0), (5, s.cha.holdoff), (1, 0),
         (7, (s.sgu.reports.filter (fun e => decide (e.status = .sent))).length)] ∧
      w 12 = laid 16 [(8, absent s.ccl.queue.head?), (2, 0), (6, s.ccl.queue.length)] ∧
      w 13 = laid 16 [decoder 3, decoder 2, decoder 1, decoder 0, (4, 0), (4, s.ccl.closing.length)] ∧
      w 14 = laid 16
        [(1, 0), (7, s.lsv.phaseCount), (1, 0), (5, s.lsv.pointer.val),
         (2, match s.lsv.testPhase with | .idle => 0 | .discharge => 1 | .charge => 2 | .resultWait => 3)] ∧
      w 15 = laid 16 [(8, absent (s.lsv.lastTest.map Prod.fst)), (8, absent s.lsv.testPort)] ∧
      w 16 = BitVec.ofNat 16 s.lsv.schedule ∧
      w 17 = laid 16
        [(1, 0), (7, match s.hwc.access with | some a => a.timer | none => 0), (2, 0),
         (1, bit01 s.mga.writing.isSome), (1, bit01 s.mga.buffer.isSome), (1, 0),
         (3, match s.lsv.lastTest with
           | none => 0
           | some (_, .pass) => 1
           | some (_, .low) => 2
           | some (_, .abortedUse) => 3
           | some (_, .aborted) => 4)] ∧
      w 18 = laid 16 (pli 0 ++ pli 1) ∧ w 19 = laid 16 (pli 2 ++ pli 3) ∧ w 20 = laid 16 (pli 4 ++ pli 5) ∧
      w 21 = laid 16 (pli 6 ++ pli 7) ∧
      w 22 = (match s.hwc.access with
        | none => 0
        | some a =>
          laid 16 [(1, 1), (1, bit01 a.sent), (1, bit01 a.write), (2, 0), (3, a.position.val), (2, 0), (6, a.index)]) ∧
      w 23 = match s.hwc.access with | none => 0 | some a => a.data

/-- R45: a port stands in the wait queue if and only if its call record is WAITING, and it stands there once. R86: the two tiers of the report list, and one entry for each type and key. -/
def Obligations.QueueAndReportListKeepTheirOrder : Prop :=
  ∀ s t : State, step s = .next t →
    (s.queueKept → t.queueKept) ∧ (s.reportsKept → t.reportsKept)

/-- R48: an attached record names exactly one channel, whose entry is BOUND and attached to that port; no channel is attached to two ports. -/
def Obligations.AttachedCallsHoldTheirChannels : Prop :=
  ∀ s t : State, s.queueKept → s.bindingsKept → step s = .next t → t.bindingsKept

/-- R61: a disabled port's record is IDLE. R17, R21: a test runs only on an IDLE port, outside BYPASS. R42: the announced flag. -/
def Obligations.LiveCallsStandOnEnabledPorts : Prop :=
  ∀ s t : State, s.queueKept → s.callsKept → step s = .next t → t.callsKept

/-- R93 to R96 with R91's echo, in the bytes of 13.3 and with R174 for what is absent. A record that is not IDLE has its classes and an identity outcome; a CALL entry stands for no other (R42). -/
def Obligations.ReportsCarryTheirSources : Prop :=
  (∀ (s : State) (p : PortNo),
    let place := fun (l : Location) =>
      (match l.carriageway with | .a => 0 | .b => 1,
       match l.kind with | .hardShoulder => 0 | .layBy => 1 | .slipRoad => 2 | .tunnel => 3)
    let location := fun (l : Location) (low : List (Nat × Nat)) => laid 8 ([(1, (place l).1), (2, (place l).2)] ++ low)
    let two := fun (n : Nat) => [BitVec.ofNat 8 (n / 256), BitVec.ofNat 8 n]
    let number := fun {n : Nat} (x : Option (Fin n)) => match x with | some k => BitVec.ofNat 8 k.val | none => 0xFF
    let reference := fun (x : Option Nat) => match x with | some n => BitVec.ofNat 8 n | none => 0
    let node : Byte := s.straps.zeroExtend 8
    let faults := laid 8
      [(1, 0), (1, bit01 (s.line p).faults.pliSupply), (1, bit01 (s.line p).faults.feedLimit),
       (1, bit01 (s.line p).faults.pliAbsent), (1, bit01 (s.line p).faults.wiringReversed),
       (1, bit01 (s.line p).faults.insulationLow), (1, bit01 (s.line p).faults.short),
       (1, bit01 (s.line p).faults.cut)]
    let flags := laid 8
      [(5, 0), (1, bit01 s.sgu.flags.bypassLeft), (1, bit01 s.sgu.flags.numberConflict),
       (1, bit01 s.sgu.flags.restarted)]
    (∀ (k b : Fin 4) (o : IdOutcome),
      let r := s.record p
      r.effClass = some k → r.baseClass = some b → r.identity = some o →
        ∃ cell, s.compose (.call p) = some (cell, BitVec.ofNat 8 r.state.code) ∧
          cell.toList =
            [0x81, node, reference r.ref, BitVec.ofNat 8 p.val,
             laid 8 [(4, r.state.code), (1, bit01 r.repeated), (1, bit01 r.reest), (2, k.val)],
             location (s.post p).location [(2, b.val), (3, o.code)], number r.channel] ++
            (match r.code with | some c => two c | none => [0xFF, 0xFF]) ++ [number r.matched] ++
            two (s.post p).location.distance) ∧
    (∃ cell, s.compose (.fault p) = some (cell, faults) ∧
      cell.toList =
        [0x82, node, BitVec.ofNat 8 p.val, faults, BitVec.ofNat 8 (s.line p).settled.code] ++
        two (BitVec.ofInt 16 (s.line p).filtered).toNat ++ [location (s.post p).location [(5, 0)]] ++
        two (s.post p).location.distance ++ [0, 0]) ∧
    (∀ n : Nat,
      (∀ e, s.ccl.closing.find? (fun e => decide (e.entry = n)) = some e →
        ∃ cell, s.compose (.close n) = some (cell, BitVec.ofNat 8 e.reason.code) ∧
          cell.toList =
            [0x83, node, reference e.ref, BitVec.ofNat 8 e.port.val, BitVec.ofNat 8 e.reason.code, number e.channel] ++
            two e.duration ++ [location e.location [(5, 0)]] ++ two e.location.distance ++ [0]) ∧
      ((∀ e ∈ s.ccl.closing, e.entry ≠ n) → s.compose (.close n) = none)) ∧
    ∃ cell, s.compose .node = some (cell, flags) ∧
      cell.toList =
        [0x84, node, BitVec.ofNat 8 s.prc.state.code,
         match s.prc.service with | some .pin => 0 | some .sin => 1 | none => 0xFF, flags,
         laid 8 [(6, 0), (1, bit01 s.prc.sinHealth.up), (1, bit01 s.prc.pinHealth.up)], 0, 0, 0, 0, 0, 0]) ∧
  ([.idle, .waiting, .offered, .alerting, .connected, .held, .ringing, .cleared, .parked] : List CallState).map
    CallState.code = List.range 9 ∧
  ([.pending, .verified, .mismatch, .malformed, .absent, .uncheckedBusy, .notFitted] : List IdOutcome).map
    IdOutcome.code = List.range 7 ∧
  ([.unknown, .cut, .onhook, .offhook, .short] : List LineState).map LineState.code = List.range 5 ∧
  ([.callerCleared, .operatorCleared, .abandoned, .noAnswer, .recallCancelled, .lineFault, .equipmentFault,
    .equipmentRestart, .portDisabled, .channelLost, .refusedBusy, .refusedDisabled, .refusedLine,
    .refusedChannel] : List CloseReason).map CloseReason.code = (List.range 14).map (· + 1) ∧
  ([.through, .wrapA, .wrapB, .isolated, .bypass] : List ProtState).map ProtState.code = List.range 5

/-- R100: a port's role follows the state of its call record. R13: when a line may be RING, REVERSED, DISCHARGE or CHARGE. -/
def Obligations.RolesAndDrivesFollowTheCalls : Prop :=
  ∀ s t : State, step s = .next t →
    (s.rolesKept → t.rolesKept) ∧ (s.drivesKept → t.drivesKept)

/-- R63, R80, R98, R141: what a node in BYPASS holds. -/
def Obligations.BypassStaysEmpty : Prop :=
  ∀ s t : State, s.rolesKept → s.bypassKept → step s = .next t → t.bypassKept

/-- 13.3 and 13.4. It says that no operand is dropped; the tests' words say that each is read from its place. -/
def Obligations.CommandsRoundTripThroughTheirBytes : Prop :=
  (∀ (node : Byte) (i : Instr) (x : CellBytes),
    encodeCommand node i = some x →
      decodeCommand x = some i ∧ byteAt x 1 = node ∧ cellKind (byteAt x 0) = .command) ∧
  (∀ (node : Byte) (i : Instr) (m : Message), i.wellFormed = true → encodeRequest node i = some m →
    decodeRequest m = i ∧ byteAt m 0 = 1 ∧ byteAt m 1 = node) ∧
  ∀ m : Message, byteAt m 0 = 1 → encodeRequest (byteAt m 1) (decodeRequest m) = some m

/-- R175, in bit-vector form beside the model's own. -/
def Obligations.FrameCheckIsTheStatedOne : Prop :=
  (∀ bs : List Byte,
    frameCheck bs =
      bs.foldl (fun (r : BitVec 16) b =>
        (List.range 8).foldl (fun (r : BitVec 16) _ =>
          if r.getLsbD 15 then (r <<< 1) ^^^ (0x1021 : BitVec 16) else r <<< 1)
          (r ^^^ ((b.setWidth 16 : BitVec 16) <<< 8))) (0xFFFF : BitVec 16)) ∧
  frameCheck [0x31, 0x32, 0x33, 0x34, 0x35, 0x36, 0x37, 0x38, 0x39] = 0x29B1 ∧
  ∀ f : Frame,
    checks (withCheck f) = true ∧ (∀ k, k < 90 → byteAt (withCheck f) k = byteAt f k) ∧
      byteAt (withCheck f) 90 = upper (frameCheck (f.toList.take 90)) ∧
      byteAt (withCheck f) 91 = lower (frameCheck (f.toList.take 90))

/-- R1: how M is formed, and the measurement of a port that is not under test. R2: the filter. R11 and R14: the flags. R19 and R20: the line under test. -/
def Obligations.MeasurementsReachTheirLine : Prop :=
  (∀ (e : Latched) (code : Nat),
    let x : Int := ((code : Int) - 2048 - e.offset) * e.slope
    let m := calibrate e code
    m ≤ 999 ∧ -999 ≤ m ∧
      (x.natAbs ≤ 999 * 4096 →
        2 * (4096 * m - x).natAbs ≤ 4096 ∧
          (2 * (4096 * m - x).natAbs = 4096 → x.natAbs < (4096 * m).natAbs)) ∧
      (1000 * 4096 ≤ x → m = 999) ∧ (x ≤ -(1000 * 4096) → m = -999)) ∧
  (∀ (k : Nat) (f m : Int),
    (f ≤ m → f ≤ filterStep k f m ∧ filterStep k f m ≤ m) ∧
    (m ≤ f → m ≤ filterStep k f m ∧ filterStep k f m ≤ f) ∧
    (filterStep k f m = f ↔ (m - f).natAbs < 2 ^ k)) ∧
  (∀ (s : State) (i : PliNo) (x : PliSlot),
    let p := portAt i (slotLine x)
    let m := calibrate (s.entryInUse p) (slotCode x)
    let th := s.thresholds p
    ¬ (s.lsv.testPort = some p ∧ s.lsv.testPhase ≠ .idle) →
      (s.supervision p ≠ .normal → s.measure i x = s) ∧
      (s.supervision p = .normal →
        let t := s.measure i x
        (t.line p).filtered = filterStep s.sect.shiftUsed (s.line p).filtered m ∧
          (t.line p).excHigh = ((s.line p).excHigh || decide (th.shortMin ≤ m.natAbs)) ∧
          (t.line p).excLow =
            ((s.line p).excLow || (decide (m.natAbs < th.cutMax) && decide ((s.line p).settled = .offhook))) ∧
          (t.line p).brake =
            ((s.line p).brake || (decide ((s.line p).drive = .ring) && decide (th.shortMin ≤ m.natAbs))) ∧
          (t.line p).settled = (s.line p).settled ∧ (t.line p).faults = (s.line p).faults ∧
          (∀ q, q ≠ p → t.line q = s.line q) ∧ t.lsv = { s.lsv with lines := t.lsv.lines } ∧
          s.changesOnly t [.lsv])) ∧
  ∀ (s : State) (i : PliNo) (x : PliSlot),
    let p := portAt i (slotLine x)
    let m := calibrate (s.entryInUse p) (slotCode x)
    let th := s.thresholds p
    let t := s.measure i x
    let ends := fun (o : TestOutcome) (k : Counter) (low : Bool) =>
      t.lsv.testPhase = .idle ∧ t.lsv.testPort = none ∧ t.lsv.lastTest = some (p, o) ∧
        (t.line p).causes = { (s.line p).causes with test := false } ∧
        (t.line p).faults = { (s.line p).faults with insulationLow := low } ∧
        (t.line p).filtered = (s.line p).filtered ∧ (t.line p).settled = (s.line p).settled ∧
        (∀ q, q ≠ p → t.line q = s.line q) ∧ s.counted t [k] ∧ s.changesOnly t [.lsv, .sgu, .counters]
    let was := (s.line p).faults.insulationLow
    s.lsv.testPort = some p → (s.post p).enabled = true → (s.line p).drive ≠ .reversed →
      (s.record p).state = .idle →
      (s.lsv.testPhase = .discharge → t = s) ∧
      (s.lsv.testPhase = .charge ∨ (s.lsv.testPhase = .resultWait ∧ slotTag x = .charge) →
        (th.offhookMin ≤ m.natAbs → ends .abortedUse .testsAborted was) ∧ (m.natAbs < th.offhookMin → t = s)) ∧
      (s.lsv.testPhase = .resultWait → slotTag x = .normal ∨ slotTag x = .discharge → t = s) ∧
      (s.lsv.testPhase = .resultWait → slotTag x = .result →
        (th.offhookMin ≤ m.natAbs → ends .abortedUse .testsAborted was) ∧
        (m.natAbs < th.offhookMin → th.insThreshold ≤ m.natAbs → ends .low .testsLow true) ∧
        (m.natAbs < th.offhookMin → m.natAbs < th.insThreshold → ends .pass .testsPassed false))

/-- R3, R4, R8, R12, R17, R19 and R20 at one boundary; R128: none is taken in a frame time numbered otherwise than 0. The debounce count stops at 255, the model's reading of the state table of 1.1. Where settling is due, SETTLE makes the polarity check (log entry 3). That the schedule count is raised, and TEST_POINT comes due, by the ins_period in force when the boundary is taken, also at the boundary of a pending bank switch, is the model's choice (DESIGN CHOICE, log entry 35). -/
def Obligations.BoundaryClassifiesNormalLines : Prop :=
  ∀ (s : State) (p : PortNo),
    let l := s.line p
    let c := classify (s.thresholds p) l.settled (s.isRinging p) l.filtered
    let v := debounceValue (s.thresholds p) (s.isRinging p) c
    let expected := if l.drive = .reversed then decide (l.filtered < 0) else decide (0 < l.filtered)
    let opposite := if l.drive = .reversed then decide (0 < l.filtered) else decide (l.filtered < 0)
    (s.rif.clock.boundaryDue = false → exec .superframeBoundary s = .next s) ∧
    (s.rif.clock.boundaryDue = true →
      ∃ t, exec .superframeBoundary s = .next t ∧
        t.line p = { l with
          candidate := (t.line p).candidate, debounce := (t.line p).debounce, settleDue := (t.line p).settleDue,
          reversal := (t.line p).reversal, polarity := (t.line p).polarity } ∧
        (s.supervision p ≠ .normal → t.line p = { l with reversal := l.reversal - 1, settleDue := false }) ∧
        (s.supervision p = .normal →
          (t.line p).reversal = l.reversal ∧
          (c = l.settled →
            (t.line p).candidate = none ∧ (t.line p).debounce = 0 ∧ (t.line p).settleDue = false) ∧
          (c ≠ l.settled →
            let n := if l.candidate = some c then capSucc 255 l.debounce else 1
            (t.line p).candidate = some c ∧ (t.line p).debounce = n ∧
              (t.line p).settleDue = decide (v ≤ n)) ∧
          (t.line p).polarity =
            if (t.line p).settleDue = false ∧ l.settled = .offhook ∧ (l.drive = .normal ∨ l.drive = .reversed) then
              (if (if l.faults.wiringReversed then expected else opposite) = true then capSucc 25 l.polarity else 0)
            else l.polarity) ∧
        t.lsv = { s.lsv with
          lines := t.lsv.lines,
          schedule := if s.sect.insPeriod = 0 then s.lsv.schedule else satSucc s.lsv.schedule,
          testPointDue :=
            if s.sect.insPeriod = 0 then s.lsv.testPointDue
            else decide (s.sect.insPeriod ≤ satSucc s.lsv.schedule),
          phaseCount :=
            match s.lsv.testPhase with
            | .idle => s.lsv.phaseCount
            | .discharge => s.lsv.phaseCount - 1
            | .charge => s.lsv.phaseCount - 1
            | .resultWait => s.lsv.phaseCount + 1 })

/-- R4 and R22 at the change of a settled state, with R87 for the FAULT entry; R12 at a boundary that settles, with R8 where the event changes the drive mode into or out of REVERSED; R6 and R98 in BYPASS. That a ring trip's check comes before its change of drive, so that the polarity count is left 0, is the model's choice (DESIGN CHOICE, log entry 44). -/
def Obligations.SettleTakesTheCandidate : Prop :=
  ∀ (s : State) (p : PortNo) (c : LineState),
    s.isDue (.settle p) = true → (s.line p).candidate = some c →
      let l := s.line p
      let leaves := l.settled = .offhook ∧ c ≠ .offhook
      let expected := if l.drive = .reversed then decide (l.filtered < 0) else decide (0 < l.filtered)
      let opposite := if l.drive = .reversed then decide (0 < l.filtered) else decide (l.filtered < 0)
      let checked :=
        if leaves then 0
        else if c = .offhook ∧ (l.drive = .normal ∨ l.drive = .reversed) then
          if (if l.faults.wiringReversed then expected else opposite) = true then capSucc 25 l.polarity else 0
        else l.polarity
      ∃ t, exec (.settle p) s = .next t ∧
        (t.line p).settled = c ∧ (t.line p).debounce = 0 ∧ (t.line p).candidate = none ∧
        (t.line p).settleDue = false ∧ (t.line p).filtered = l.filtered ∧
        (t.line p).faults =
          { l.faults with
            cut := decide (c = .cut), short := decide (c = .short),
            wiringReversed := l.faults.wiringReversed && !decide leaves } ∧
        (s.inBypass = false → (t.line p).faults ≠ l.faults → t.listedAfresh (.fault p)) ∧
        ((t.line p).faults = l.faults →
          entryOf t.sgu.reports (.fault p) = entryOf s.sgu.reports (.fault p)) ∧
        (∀ q, q ≠ p → entryOf t.sgu.reports (.fault q) = entryOf s.sgu.reports (.fault q)) ∧
        (t.line p).polarity =
          (if decide ((t.line p).drive = .reversed) = decide (l.drive = .reversed) then checked else 0) ∧
        (s.inBypass = true →
          (t.line p).drive = l.drive ∧ (∀ q, q ≠ p → t.line q = s.line q) ∧ s.changesOnly t [.lsv])

/-- R41, R45 and R47, with R5's event; R25, R26 and R28 for the identity; R72, R48 and R110 for the channel taken at once. That a decoder attached has the phase MAKE is the model's choice (DESIGN CHOICE, log entry 16). -/
def Obligations.LiftingOpensACall : Prop :=
  ∀ (s : State) (p : PortNo),
    s.isDue (.settle p) = true → (s.line p).candidate = some .offhook → (s.line p).settled ≠ .offhook →
    s.inBypass = false → (s.record p).state = .idle →
      let cls : Fin 4 := if s.windowOpen p then 0 else (s.post p).baseClass
      let opened := fun (t : State) =>
        (t.record p).ref = some s.newRef ∧ t.ccl.refCounter = s.newRef ∧
        (t.record p).createdAt = s.ccl.superframes ∧ (t.record p).latched = some (s.post p).latched ∧
        (t.record p).baseClass = some cls ∧ (t.record p).effClass = some cls ∧
        (t.record p).repeated = s.windowOpen p ∧ (t.record p).reest = false ∧
        (t.record p).time = 0 ∧ (t.record p).age = 0 ∧
        (t.record p).identity = some (if (s.post p).idFitted then .pending else .notFitted) ∧
        s.identityAsked t p (s.post p).idFitted ∧
        (t.line p).settled = .offhook ∧ (∀ q, q ≠ p → t.record q = s.record q) ∧ t.ccl.closing = s.ccl.closing
      (s.unattached = none →
        ∃ t, exec (.settle p) s = .next t ∧ opened t ∧ (t.record p).state = .waiting ∧
          (t.record p).announced = false ∧ (t.record p).channel = none ∧
          t.ccl.queue =
            placeAfter (fun q => decide ((if q = p then cls.val else s.classOf q) ≤ cls.val)) p s.ccl.queue ∧
          (t.cadence p).role = .queue ∧ t.cha = s.cha) ∧
      ∀ c, s.unattached = some c → s.ccl.queue = [] →
        ∃ t, exec (.settle p) s = .next t ∧ opened t ∧ (t.record p).state = .offered ∧
          (t.record p).announced = true ∧ (t.record p).channel = some c ∧ (t.record p).lastChannel = some c ∧
          t.listedAfresh (.call p) ∧ t.ccl.queue = [] ∧ (t.cadence p).role = .ringback ∧
          t.chan c = { s.chan c with port := some p, timer := 0 } ∧ (∀ d, d ≠ c → t.chan d = s.chan d) ∧
          t.voice c = { gain := s.sect.aInit }

/-- R49 to R52 with R43, R5 for the events and R74 for the channel; R16 and R59 for the ring trip, with R25, R28 and R13. That a decoder attached has the phase MAKE is the model's choice (DESIGN CHOICE, log entry 16). -/
def Obligations.ReplacingTheHandsetClosesTheCall : Prop :=
  ∀ (s : State) (p : PortNo) (c : LineState),
    s.isDue (.settle p) = true → (s.line p).candidate = some c → s.inBypass = false →
    s.queueKept → s.bindingsKept →
      let r := s.record p
      let old := (s.line p).settled
      ∃ t, exec (.settle p) s = .next t ∧
        let closed := fun (why : CloseReason) (again : Option (BitVec 32)) =>
          s.callEnds t p again ∧ s.oneClosed t p why
        let silent := fun (l : List Counter) =>
          s.callEnds t p r.repeatUntil ∧ t.ccl.closing = s.ccl.closing ∧ s.counted t l
        let window := some (s.ccl.superframes + BitVec.ofNat 32 s.sect.repeatWindow)
        (c = .onhook → old = .offhook ∨ old = .unknown →
          (r.state = .waiting ∨ r.state = .offered ∨ r.state = .alerting → r.reest = true →
            closed .callerCleared r.repeatUntil) ∧
          (r.state = .waiting → r.reest = false → r.time < s.sect.briefLift → silent [.briefLifts]) ∧
          (r.state = .waiting → r.reest = false → s.sect.briefLift ≤ r.time → closed .abandoned window) ∧
          (r.state = .offered ∨ r.state = .alerting → r.reest = false → closed .abandoned window) ∧
          (r.state = .connected ∨ r.state = .held → closed .callerCleared r.repeatUntil) ∧
          (r.state = .cleared → closed .operatorCleared r.repeatUntil) ∧
          (r.state = .parked → silent []) ∧
          (r.state = .idle ∨ r.state = .ringing → t.ccl = s.ccl ∧ t.cha = s.cha ∧ s.counted t [])) ∧
        (c = .cut ∨ c = .short → old ≠ c →
          (s.live p = true → closed .lineFault r.repeatUntil) ∧
          (r.state = .parked → silent []) ∧
          (r.state = .idle → t.ccl = s.ccl ∧ t.cha = s.cha ∧ s.counted t [])) ∧
        (c = .offhook → old ≠ c → r.state = .ringing →
          let fitted := (s.entryInUse p).idFitted
          t.record p =
            { r with state := .connected, time := 0, identity := some (if fitted then .pending else .notFitted) } ∧
          s.identityAsked t p fitted ∧ (t.cadence p).role = .none ∧ (s.lsv.testPort ≠ some p → (t.line p).drive = .reversed) ∧
          (r.announced = true → t.listedAfresh (.call p)) ∧ (∀ q, q ≠ p → t.record q = s.record q) ∧
          t.ccl.queue = s.ccl.queue ∧ t.ccl.closing = s.ccl.closing ∧ t.cha = s.cha ∧
          s.counted t (if fitted then [] else [.idNotFitted]))

/-- R7 and R8 at the end of a reversal; R12 and R22 at the count of 25. -/
def Obligations.PolarityStepsEnd : Prop :=
  ∀ (s : State) (p : PortNo),
    ((s.line p).causes.reversal = true → (s.line p).reversal = 0 →
      ∃ t, exec (.reversalEnd p) s = .next t ∧
        (t.line p).causes = { (s.line p).causes with reversal := false } ∧
        ((s.line p).causes = { reversal := true } →
          (t.line p).debounce = 0 ∧ (t.line p).candidate = none) ∧
        (t.line p).settled = (s.line p).settled ∧ (t.line p).filtered = (s.line p).filtered ∧
        (∀ q, q ≠ p → t.line q = s.line q) ∧ s.changesOnly t [.lsv]) ∧
    ((s.line p).polarity = 25 → (s.post p).enabled = true →
      ∃ t, exec (.wiringReversedToggle p) s = .next t ∧
        t.line p = { s.line p with
          polarity := 0,
          faults := { (s.line p).faults with wiringReversed := !(s.line p).faults.wiringReversed } } ∧
        (s.inBypass = false → t.listedAfresh (.fault p)) ∧
        (∀ q, q ≠ p → t.line q = s.line q) ∧ s.changesOnly t [.lsv, .sgu])

/-- R19 and R20: the phases of the test. -/
def Obligations.InsulationTestPhasesFollow : Prop :=
  ∀ (s : State) (p : PortNo),
    s.lsv.testPort = some p → (s.post p).enabled = true → (s.record p).state = .idle →
      (s.lsv.testPhase = .discharge → s.lsv.phaseCount = 0 →
        ∃ t, exec .testDischargeEnd s = .next t ∧ t.lsv.testPhase = .charge ∧
          t.lsv.phaseCount = s.sect.tChg ∧ t.lsv.testPort = some p ∧ (t.line p).drive = .charge ∧
          (∀ q, q ≠ p → t.line q = s.line q) ∧ s.changesOnly t [.lsv]) ∧
      (s.lsv.testPhase = .charge → s.lsv.phaseCount = 0 →
        ∃ t, exec .testChargeEnd s = .next t ∧ t.lsv.testPhase = .resultWait ∧
          t.lsv.phaseCount = 0 ∧ t.lsv.testPort = some p ∧ (t.line p).drive = .normal ∧
          (∀ q, q ≠ p → t.line q = s.line q) ∧ s.changesOnly t [.lsv]) ∧
      (s.lsv.testPhase = .resultWait → 2 ≤ s.lsv.phaseCount →
        ∃ t, exec .testResultTimeout s = .next t ∧ t.lsv.testPhase = .idle ∧ t.lsv.testPort = none ∧
          t.lsv.lastTest = some (p, .aborted) ∧ (t.line p).causes.test = false ∧
          (t.line p).drive = .normal ∧ (t.line p).faults = (s.line p).faults ∧
          (∀ q, q ≠ p → t.line q = s.line q) ∧ s.counted t [.testsAborted] ∧
          s.changesOnly t [.lsv, .counters])

/-- R17, R18 and R19: how a test starts. That a due TEST_POINT does not look at ins_period again, and so acts also where BANK_SWITCH has since brought it to 0, is the model's choice (DESIGN CHOICE, log entry 35). -/
def Obligations.InsulationTestsStart : Prop :=
  ∀ s : State,
    (s.lsv.testPointDue = true → s.lsv.testPhase = .idle → s.inBypass = false →
      ∀ p, (portsAfter s.lsv.pointer).find? s.testEligible = some p →
        ∃ t, exec .testPoint s = .next t ∧ t.lsv.pointer = p ∧ t.lsv.schedule = 0 ∧
          t.lsv.testPort = some p ∧ t.lsv.testPhase = .discharge ∧ t.lsv.phaseCount = s.sect.tDis ∧
          (t.line p).causes.test = true ∧ (t.line p).drive = .discharge ∧
          (∀ q, q ≠ p → t.line q = s.line q) ∧ s.changesOnly t [.lsv]) ∧
    (s.lsv.testPointDue = true →
      s.lsv.testPhase ≠ .idle ∨ s.inBypass = true ∨ (∀ p, s.testEligible p = false) →
        ∃ t, exec .testPoint s = .next t ∧
          t.lsv = { s.lsv with schedule := 0, testPointDue := false } ∧ s.changesOnly t [.lsv]) ∧
    (∀ r : Request, s.inBypass = false →
      ∃ t, exec (.testLine r) s = .next t ∧ s.changesOnly t [.lsv, .mga, .counters] ∧
        s.counted t s.replyCounts ∧
        (r.port = none → s.replied t 10 r .badRange [] ∧ t.lsv = s.lsv) ∧
        ∀ p, r.port = some p →
          (s.lsv.testPhase ≠ .idle → s.replied t 10 r .busy [] ∧ t.lsv = s.lsv) ∧
          (s.lsv.testPhase = .idle → s.testEligible p = false →
            s.replied t 10 r .notEligible [] ∧ t.lsv = s.lsv) ∧
          (s.lsv.testPhase = .idle → s.testEligible p = true →
            s.replied t 10 r .ok [] ∧ t.lsv.testPort = some p ∧ t.lsv.testPhase = .discharge ∧
              t.lsv.phaseCount = s.sect.tDis ∧ t.lsv.pointer = s.lsv.pointer ∧
              t.lsv.schedule = s.lsv.schedule ∧ (t.line p).causes.test = true ∧
              (t.line p).drive = .discharge ∧ ∀ q, q ≠ p → t.line q = s.line q))

/-- R26 and R34: the two expiries, with R27 and R37, and R42 for the CALL entry. The model's own: an outcome is stored over PENDING alone, so that a record whose identity is another stays as it was (DEDUCED, log entry 17); a decoder released or attached has the phase MAKE, as the values in decoderFreed have it (DESIGN CHOICE, log entry 16). -/
def Obligations.ExpiriesGiveTheirOutcomes : Prop :=
  ∀ s : State,
    (∀ p : PortNo, s.isDue (.decoderWaitExpiry p) = true →
      ∃ t, exec (.decoderWaitExpiry p) s = .next t ∧ s.awaitsDecoder p = true ∧
        t.idd = { s.idd with waiting := s.idd.waiting.filter (fun w => !decide (w.port = p)) } ∧
        ((s.record p).identity = some .pending →
          t.record p = { s.record p with identity := some .uncheckedBusy, code := none, matched := none }) ∧
        ((s.record p).identity ≠ some .pending → t.record p = s.record p) ∧ s.outcomeTold t p ∧
        (∀ q, q ≠ p → t.record q = s.record q) ∧ t.ccl.queue = s.ccl.queue ∧
        s.counted t [.idUncheckedBusy] ∧ s.changesOnly t [.idd, .ccl, .sgu, .counters]) ∧
    (∀ (d : DecNo) (p : PortNo), s.isDue (.identityWindowExpiry d) = true → (s.decoder d).port = some p →
      let o : IdOutcome := if (s.decoder d).startSeen then .malformed else .absent
      ∃ t, exec (.identityWindowExpiry d) s = .next t ∧
        ((s.record p).identity = some .pending →
          t.record p = { s.record p with identity := some o, code := none, matched := none }) ∧
        ((s.record p).identity ≠ some .pending → t.record p = s.record p) ∧ s.outcomeTold t p ∧
        s.decoderFreed t d ∧ (∀ q, q ≠ p → t.record q = s.record q) ∧
        t.ccl.queue = s.ccl.queue ∧
        s.counted t [if (s.decoder d).startSeen then .idMalformed else .idAbsent] ∧
        s.changesOnly t [.idd, .ccl, .sgu, .counters])

/-- R29 to R32: a decoder's bits; R35 and R33: judging a burst. R27, R28 and R36 for the decoder; R37 and R42 for the CALL entry. That a failed decoder holds run length 0 and keeps its phase is the model's (DEDUCED, log entry 16), and that one released or attached has the phase MAKE (DESIGN CHOICE, log entry 16). -/
def Obligations.BurstsAreJudged : Prop :=
  (∀ (g : Sect) (bit : Loop) (d : Decoder),
    let r := Decoder.take g bit d
    let n := satSucc d.run
    let back := fun (x : Decoder) => { x with state := .hunt, run := 0, index := 0, bits := [] }
    let x := { d with previous := some bit }
    (d.previous = none → r = (x, .quiet)) ∧
    (d.previous = some bit →
      (d.state = .hunt → r = (d, .quiet)) ∧
      (d.state = .start → r = ({ d with run := n }, .quiet)) ∧
      (d.state = .bits →
        let most := if d.phase = .make then g.idMakeMax else max g.idZeroMax g.idOneMax
        (n ≤ most → r = ({ d with run := n }, .quiet)) ∧ (most < n → r = (back d, .failed)))) ∧
    (∀ b, d.previous = some b → b ≠ bit →
      (d.state = .hunt → bit = .broken → r = ({ x with state := .start, run := 1 }, .quiet)) ∧
      (d.state = .hunt → bit = .made → r = (x, .quiet)) ∧
      (d.state = .start →
        (g.idStartMin ≤ d.run ∧ d.run ≤ g.idStartMax →
          r = ({ x with state := .bits, phase := .make, index := 0, bits := [], run := 1, startSeen := true },
            .quiet)) ∧
        (¬ (g.idStartMin ≤ d.run ∧ d.run ≤ g.idStartMax) → r = (back x, .quiet))) ∧
      (d.state = .bits → d.phase = .make →
        (g.idMakeMin ≤ d.run ∧ d.run ≤ g.idMakeMax → r = ({ x with phase := .brk, run := 1 }, .quiet)) ∧
        (¬ (g.idMakeMin ≤ d.run ∧ d.run ≤ g.idMakeMax) → r = (back x, .failed))) ∧
      (d.state = .bits → d.phase = .brk →
        let zero := decide (g.idZeroMin ≤ d.run) && decide (d.run ≤ g.idZeroMax)
        let one := decide (g.idOneMin ≤ d.run) && decide (d.run ≤ g.idOneMax)
        ((zero || one) = true → d.index < 15 →
          r = ({ x with bits := d.bits ++ [!zero], index := d.index + 1, phase := .make, run := 1 },
            .quiet)) ∧
        ((zero || one) = true → d.index = 15 →
          r.2 = .complete ∧ r.1.bits = d.bits ++ [!zero] ∧ r.1.port = d.port) ∧
        ((zero || one) = false → r = (back x, .failed))))) ∧
  ∀ (s : State) (d : DecNo) (p : PortNo),
    (s.record p).identity = some .pending →
      let bits := (s.decoder d).bits
      let code := bitsToNat (bits.take 12)
      let right := bitsToNat ((bits.drop 12).take 4) = (code / 256 % 16 + code / 16 % 16 + code % 16) % 16
      let t := s.judgeBurst d p
      (right → code = (s.entryInUse p).code →
        t.record p = { s.record p with identity := some .verified, code := some code, matched := none } ∧
          s.outcomeTold t p ∧ s.counted t [.idVerified] ∧ s.decoderFreed t d) ∧
      (right → code ≠ (s.entryInUse p).code →
        t.record p =
          { s.record p with
            identity := some .mismatch, code := some code,
            matched := (s.tbs.index.find? (fun e => decide (e.1 = code))).map Prod.snd } ∧
          s.outcomeTold t p ∧ s.counted t [.idMismatch] ∧ s.decoderFreed t d) ∧
      (¬ right → (s.decoder d).failed < 2 →
        t.record p = s.record p ∧ t.sgu = s.sgu ∧ s.counted t [.idFailedBursts] ∧
          t.decoder d =
            { s.decoder d with
              state := .hunt, run := 0, index := 0, bits := [], failed := (s.decoder d).failed + 1 } ∧
          t.idd.waiting = s.idd.waiting ∧ ∀ e, e ≠ d → t.decoder e = s.decoder e) ∧
      (¬ right → 2 ≤ (s.decoder d).failed →
        t.record p = { s.record p with identity := some .malformed, code := none, matched := none } ∧
          s.outcomeTold t p ∧ s.counted t [.idFailedBursts, .idMalformed] ∧ s.decoderFreed t d) ∧
      (∀ q, q ≠ p → t.record q = s.record q)

/-- R39: at most 32 records and 8 closing entries hold references, so a free value is found. -/
def Obligations.NewReferencesAreFree : Prop :=
  ∀ s : State, s.closingKept →
    1 ≤ s.newRef ∧ s.newRef ≤ 255 ∧
      (∀ p, (s.record p).state ≠ .idle → (s.record p).ref ≠ some s.newRef) ∧
      ∀ e ∈ s.ccl.closing, e.ref ≠ some s.newRef

/-- R55, with the frame of the command. -/
def Obligations.AnswerConnectsTheCall : Prop :=
  ∀ (s : State) (ref : Byte) (p : PortNo) (c : ChanNo),
    s.inBypass = false → s.callsKept → s.portOfRef ref = some p →
    (s.record p).state = .offered ∨ (s.record p).state = .alerting → (s.record p).channel = some c →
      ∃ t, exec (.answer ref) s = .next t ∧
        t.record p = { s.record p with state := .connected, time := 0 } ∧
        (t.cadence p).role = .none ∧ t.downlinkSample p = (s.voice c).heard ∧
        (t.line p).drive = .reversed ∧
        ((s.line p).drive ≠ .reversed →
          (t.line p).reversal = 4 ∧ (t.line p).causes.reversal = true ∧ (t.line p).polarity = 0) ∧
        t.listedAfresh (.call p) ∧ t.offeredConfirmed p = t ∧
        (∀ q, q ≠ p → t.record q = s.record q ∧ t.line q = s.line q ∧ t.cadence q = s.cadence q) ∧
        t.ccl.queue = s.ccl.queue ∧ t.ccl.closing = s.ccl.closing ∧ s.counted t [.commandsTaken] ∧
        s.changesOnly t [.lsv, .ccl, .sgu, .tgn, .counters]

/-- R56, with the frame of the two commands. -/
def Obligations.HoldAndResumeTheCall : Prop :=
  ∀ (s : State) (ref : Byte) (p : PortNo) (c : ChanNo),
    s.inBypass = false → s.callsKept → s.portOfRef ref = some p → (s.record p).channel = some c →
    (s.line p).drive = .reversed →
      ((s.record p).state = .connected →
        ∃ t, exec (.hold ref) s = .next t ∧
          t.record p = { s.record p with state := .held, time := 0 } ∧ (t.cadence p).role = .hold ∧
          t.downlinkSample p = t.toneSample p ∧
          (∀ x, (t.formUplink p x).vcn.uplink[p] =
            limiter s.sect.limit (channelGain (s.voice c).gain (portGain (s.post p).gainUp x))) ∧
          (s.bindingsKept → ∀ (f : Frame) (g : Frame), tagOf f c = ⟨.grant, s.straps⟩ →
            (exchangeVoice f (t, g) c).2 = putVoice g c t.vcn.uplink[p]) ∧
          t.line p = s.line p ∧ t.listedAfresh (.call p) ∧
          (∀ q, q ≠ p → t.record q = s.record q ∧ t.line q = s.line q ∧ t.cadence q = s.cadence q) ∧
          t.ccl.queue = s.ccl.queue ∧ t.ccl.closing = s.ccl.closing ∧ s.counted t [.commandsTaken] ∧
          s.changesOnly t [.lsv, .ccl, .sgu, .tgn, .counters]) ∧
      ((s.record p).state = .held →
        ∃ t, exec (.resume ref) s = .next t ∧
          t.record p = { s.record p with state := .connected, time := 0 } ∧
          (t.cadence p).role = .none ∧ t.downlinkSample p = (s.voice c).heard ∧
          t.line p = s.line p ∧ t.listedAfresh (.call p) ∧
          (∀ q, q ≠ p → t.record q = s.record q ∧ t.line q = s.line q ∧ t.cadence q = s.cadence q) ∧
          t.ccl.queue = s.ccl.queue ∧ t.ccl.closing = s.ccl.closing ∧ s.counted t [.commandsTaken] ∧
          s.changesOnly t [.lsv, .ccl, .sgu, .tgn, .counters])

/-- R57 and R74. -/
def Obligations.ClearReleasesTheChannel : Prop :=
  ∀ (s : State) (ref : Byte) (p : PortNo) (c : ChanNo),
    s.inBypass = false → s.callsKept → s.bindingsKept → s.portOfRef ref = some p →
    (s.record p).state = .offered ∨ (s.record p).state = .alerting ∨
      (s.record p).state = .connected ∨ (s.record p).state = .held →
    (s.record p).channel = some c →
      ∃ t, exec (.clear ref) s = .next t ∧
        t.record p = { s.record p with state := .cleared, channel := none, time := 0 } ∧
        t.chan c = { state := .releasing, timer := atLeastOne s.sect.releaseTimeout } ∧
        (t.cadence p).role = .clear ∧ (t.line p).drive = .normal ∧
        ((s.line p).drive = .reversed →
          (t.line p).reversal = 4 ∧ (t.line p).causes.reversal = true ∧ (t.line p).polarity = 0) ∧
        t.vcn.uplink[p] = 0 ∧ t.awaitsDecoder p = false ∧ t.listedAfresh (.call p) ∧
        (∀ q, q ≠ p → t.record q = s.record q ∧ t.line q = s.line q ∧ t.cadence q = s.cadence q) ∧
        (∀ d, d ≠ c → t.chan d = s.chan d) ∧ t.ccl.queue = s.ccl.queue ∧
        t.ccl.closing = s.ccl.closing ∧ s.counted t [.commandsTaken] ∧
        s.changesOnly t [.lsv, .idd, .ccl, .cha, .sgu, .tgn, .vcn, .counters]

/-- R53, and R85 for the fields of CANCEL. -/
def Obligations.StaleCommandsOnlyCount : Prop :=
  ∀ s : State, s.inBypass = false →
    (∀ (ref : Byte) (c : Instr) (acts : CallState → Bool),
      (c = .answer ref ∧ acts = (fun st => decide (st = .offered ∨ st = .alerting))) ∨
      (c = .hold ref ∧ acts = (fun st => decide (st = .connected))) ∨
      (c = .resume ref ∧ acts = (fun st => decide (st = .held))) ∨
      (c = .clear ref ∧
        acts = (fun st => decide (st = .offered ∨ st = .alerting ∨ st = .connected ∨ st = .held))) →
        ((∀ p, (s.record p).state = .idle ∨ (s.record p).ref ≠ some ref.toNat) →
          ∃ t, exec c s = .next t ∧ t.sgu = (s.commandActed c).sgu ∧
            s.counted t [.commandsTaken, .staleCommands] ∧ s.changesOnly t [.sgu, .counters]) ∧
        (∀ p, s.portOfRef ref = some p → acts (s.record p).state = false →
          ∃ t, exec c s = .next t ∧ t.sgu = (s.commandActed c).sgu ∧
            s.counted t [.commandsTaken, .staleState] ∧ s.changesOnly t [.sgu, .counters])) ∧
    (∀ port : Byte,
      (∀ p, portOfByte port = some p → (s.record p).state ≠ .ringing →
        ∃ t, exec (.cancel port) s = .next t ∧ t.sgu = (s.commandActed (.cancel port)).sgu ∧
          s.counted t
            [.commandsTaken, if (s.record p).state = .idle then .staleCommands else .staleState] ∧
          s.changesOnly t [.sgu, .counters]) ∧
      (32 ≤ port.toNat →
        ∃ t, exec (.cancel port) s = .next t ∧ t.sgu = (s.commandActed (.cancel port)).sgu ∧
          s.counted t [.badCommands] ∧ s.changesOnly t [.sgu, .counters]))

/-- R58 row 5 and R41. -/
def Obligations.RecallRingsTheIdlePort : Prop :=
  ∀ (s : State) (port channel : Byte) (p : PortNo) (c : ChanNo),
    s.inBypass = false → portOfByte port = some p → chanOfByte channel = some c →
    (s.record p).state = .idle → (s.post p).enabled = true → (s.line p).settled = .onhook →
    (s.chan c).state = .bound → (s.chan c).port = none → (s.line p).brake = false →
      ∃ t, exec (.recall port channel) s = .next t ∧
        (t.record p).state = .ringing ∧ (t.record p).ref = some s.newRef ∧
        (t.record p).baseClass = some (s.post p).baseClass ∧
        (t.record p).effClass = some (s.post p).baseClass ∧ (t.record p).repeated = false ∧
        (t.record p).identity = some (if (s.post p).idFitted then .pending else .notFitted) ∧
        (t.record p).channel = some c ∧ (t.record p).lastChannel = some c ∧
        (t.record p).announced = true ∧ (t.record p).time = 0 ∧
        (t.record p).createdAt = s.ccl.superframes ∧ (t.record p).latched = some (s.post p).latched ∧
        t.chan c = { s.chan c with port := some p, timer := 0 } ∧
        t.voice c = { gain := s.sect.aInit } ∧ t.lsv.testPort ≠ some p ∧
        (t.cadence p).role = .ring ∧
        ((t.line p).drive = if (t.cadence p).phase = .on then .ring else .normal) ∧
        t.listedAfresh (.call p) ∧ (∀ q, q ≠ p → t.record q = s.record q) ∧
        (∀ d, d ≠ c → t.chan d = s.chan d ∧ t.voice d = s.voice d) ∧
        t.ccl.queue = s.ccl.queue ∧ t.ccl.closing = s.ccl.closing ∧ t.ccl.refCounter = s.newRef

/-- R58 rows 1 to 4; R85 for the port. -/
def Obligations.RecallsAreRefusedWithTheirReason : Prop :=
  ∀ (s : State) (port channel : Byte),
    s.inBypass = false →
      (∀ (p : PortNo) (why : CloseReason), portOfByte port = some p → s.ccl.closing.length < 8 →
        ((s.record p).state ≠ .idle ∧ why = .refusedBusy) ∨
        ((s.record p).state = .idle ∧ (s.post p).enabled = false ∧ why = .refusedDisabled) ∨
        ((s.record p).state = .idle ∧ (s.post p).enabled = true ∧ (s.line p).settled ≠ .onhook ∧
          why = .refusedLine) ∨
        ((s.record p).state = .idle ∧ (s.post p).enabled = true ∧ (s.line p).settled = .onhook ∧
          (∀ c, chanOfByte channel = some c → (s.chan c).state ≠ .bound ∨ (s.chan c).port ≠ none) ∧
          why = .refusedChannel) →
          ∃ t, exec (.recall port channel) s = .next t ∧
            t.ccl.closing = s.ccl.closing ++
              [{ entry := s.ccl.nextEntry, ref := none, port := p, reason := why,
                 channel := chanOfByte channel, duration := 0, location := (s.post p).location }] ∧
            t.ccl.records = s.ccl.records ∧ t.ccl.queue = s.ccl.queue ∧
            t.listedAfresh (.close s.ccl.nextEntry) ∧ s.counted t [.commandsTaken] ∧
            s.changesOnly t [.ccl, .sgu, .counters]) ∧
      (32 ≤ port.toNat →
        ∃ t, exec (.recall port channel) s = .next t ∧ s.counted t [.badCommands] ∧
          t.sgu = (s.commandActed (.recall port channel)).sgu ∧ s.changesOnly t [.sgu, .counters])

/-- R59 and R43. -/
def Obligations.CancelEndsTheRecall : Prop :=
  ∀ (s : State) (port : Byte) (p : PortNo) (c : ChanNo),
    s.inBypass = false → s.callsKept → s.bindingsKept → portOfByte port = some p →
    (s.record p).state = .ringing → (s.record p).channel = some c → s.ccl.closing.length < 8 →
      ∃ t, exec (.cancel port) s = .next t ∧
        (t.record p).state = .idle ∧ (t.record p).ref = none ∧ (t.record p).channel = none ∧
        (t.record p).repeatUntil = (s.record p).repeatUntil ∧
        (∃ e, t.ccl.closing = s.ccl.closing ++ [e] ∧ e.ref = (s.record p).ref ∧ e.port = p ∧
          e.reason = .recallCancelled ∧ e.channel = (s.record p).lastChannel ∧
          e.duration = min ((s.ccl.superframes - (s.record p).createdAt).toNat / 500) 65535) ∧
        t.chan c = { state := .releasing, timer := atLeastOne s.sect.releaseTimeout } ∧
        (t.cadence p).role = .none ∧ (t.line p).brake = false ∧ (t.line p).drive = .normal ∧
        entryOf t.sgu.reports (.call p) = none ∧ t.listedAfresh (.close s.ccl.nextEntry) ∧
        (∀ q, q ≠ p → t.record q = s.record q) ∧ (∀ d, d ≠ c → t.chan d = s.chan d) ∧
        s.counted t [.commandsTaken]

/-- R46 with R45's placement; R51 with R43. That the PARKED record keeps its classes, identity, flags and last channel is the model's reading (DEDUCED, log entry 15). -/
def Obligations.WaitsAgeAndClearedCallsPark : Prop :=
  ∀ (s : State) (p : PortNo), s.inBypass = false →
    (s.isDue (.ageing p) = true → ∀ k : Fin 4, (s.record p).effClass = some k →
      let k' : Fin 4 := if k.val = 0 then 0 else ⟨k.val - 1, by omega⟩
      ∃ t, exec (.ageing p) s = .next t ∧
        t.record p = { s.record p with age := 0, effClass := some k' } ∧
        (k = 0 → t.ccl.queue = s.ccl.queue) ∧
        (k ≠ 0 → t.ccl.queue =
          placeAfter (fun q => decide ((if q = p then k'.val else s.classOf q) ≤ k'.val)) p
            (s.ccl.queue.filter (fun q => !decide (q = p)))) ∧
        (k ≠ 0 → (s.record p).announced = true → (s.record p).state = .waiting →
          t.listedAfresh (.call p)) ∧
        (∀ q, q ≠ p → t.record q = s.record q) ∧ s.counted t [] ∧ s.changesOnly t [.ccl, .sgu]) ∧
    (s.isDue (.parkTimeout p) = true → (s.record p).channel = none → s.ccl.closing.length < 8 →
      ∃ t, exec (.parkTimeout p) s = .next t ∧
        (∃ e, t.ccl.closing = s.ccl.closing ++ [e] ∧ e.ref = (s.record p).ref ∧ e.port = p ∧
          e.reason = .operatorCleared ∧ e.channel = (s.record p).lastChannel ∧
          e.duration = min ((s.ccl.superframes - (s.record p).createdAt).toNat / 500) 65535 ∧
          e.location = (s.post p).location) ∧
        t.record p = { s.record p with
          state := .parked, ref := some t.ccl.refCounter, announced := false, channel := none, time := 0 } ∧
        (∀ e ∈ s.ccl.closing, e.ref ≠ some t.ccl.refCounter) ∧
        (s.record p).ref ≠ some t.ccl.refCounter ∧
        (t.cadence p).role = .none ∧ entryOf t.sgu.reports (.call p) = none ∧
        t.listedAfresh (.close s.ccl.nextEntry) ∧ (∀ q, q ≠ p → t.record q = s.record q) ∧
        t.cha = s.cha ∧ s.counted t [])

/-- The boundary rules of the blocks; R26 and R34 for the decoders. The assignment timer stands still at a boundary at which the hold has still to count (before it, the hold count is not 0), the one that ends the hold included: the model's choice (log entry 21). Ageing and the schedule count are on or off by the tables in force when the boundary is taken: the model's choice (DESIGN CHOICE, log entry 35). So is that a switch set PENDING by a COMMIT taken ahead of this boundary, at its own moment or before, comes due with it (DESIGN CHOICE, log entry 49). -/
def Obligations.BoundaryMovesTheCounts : Prop :=
  ∀ s : State, s.rif.clock.boundaryDue = true → ∃ t, exec .superframeBoundary s = .next t ∧
    t.ccl = { s.ccl with superframes := s.ccl.superframes + 1, records := t.ccl.records } ∧
    (∀ p, t.record p =
      if (s.record p).state = .idle then s.record p
      else if (s.record p).state = .waiting ∧ s.sect.agePeriod ≠ 0 then
        { s.record p with time := satSucc (s.record p).time, age := satSucc (s.record p).age }
      else { s.record p with time := satSucc (s.record p).time }) ∧
    (∀ d, t.decoder d =
      if (s.decoder d).state = .free then s.decoder d
      else { s.decoder d with window := satSucc (s.decoder d).window }) ∧
    t.idd.waiting = s.idd.waiting.map (fun w => { w with count := satSucc w.count }) ∧
    (∀ p, t.cadence p =
      if (s.cadence p).phase = .on ∨ (s.cadence p).phase = .off then
        { s.cadence p with remaining := (s.cadence p).remaining - 1 }
      else s.cadence p) ∧
    (∀ c, t.chan c =
      if (s.chan c).state = .bound ∧ (s.chan c).port = none ∧ s.prc.hold = 0 then
        { s.chan c with timer := (s.chan c).timer - 1 }
      else s.chan c) ∧ t.cha.holdoff = s.cha.holdoff ∧
    t.sgu = { s.sgu with
      cellsTaken := 0,
      reports := s.sgu.reports.map (fun e =>
        if e.status = .sent then { e with timer := e.timer - 1 } else e) } ∧
    (∀ i, t.pli i =
      if (s.pli i).ready = true then s.pli i
      else { s.pli i with lossCount := satSucc (s.pli i).lossCount }) ∧
    t.hwc = { s.hwc with plis := t.hwc.plis } ∧
    (∀ i, t.health i = { s.health i with upCount := satSucc (s.health i).upCount }) ∧
    t.prc.state = s.prc.state ∧ t.prc.service = s.prc.service ∧ t.prc.cause = s.prc.cause ∧
    t.prc.hold = s.prc.hold - 1 ∧
    t.prc.holdEndDue = (s.prc.holdEndDue || decide (s.prc.hold = 1)) ∧
    t.tbs = { s.tbs with switchDue := s.tbs.switching } ∧
    t.rif = { s.rif with clock := { s.rif.clock with boundaryDue := false } } ∧
    (t.lsv.schedule = if s.sect.insPeriod = 0 then s.lsv.schedule else satSucc s.lsv.schedule) ∧
    t.lsv = { s.lsv with
      lines := t.lsv.lines, schedule := t.lsv.schedule, testPointDue := t.lsv.testPointDue,
      phaseCount := t.lsv.phaseCount } ∧
    s.changesOnly t [.lsv, .idd, .ccl, .cha, .sgu, .tgn, .rif, .prc, .hwc, .tbs]

/-- R69, R75 and R72 at a timer's end; R73, R113 and R116 at a count's. The model's choices: the mismatch count is 0 after an assignment's expiry (DESIGN CHOICE, log entry 45); a complete block is judged whether or not its channel is still attached (DESIGN CHOICE, log entry 47). -/
def Obligations.ChannelCountsRunOut : Prop :=
  (∀ (s : State) (c : ChanNo), (s.chan c).timer = 0 →
    ((s.chan c).state = .claimed →
      ∃ t, exec (.claimTimeout c) s = .next t ∧ t.chan c = {} ∧ t.cha.holdoff = 16 ∧
        (∀ d, d ≠ c → t.chan d = s.chan d) ∧ s.counted t [.claimTimeouts] ∧
        s.changesOnly t [.cha, .counters]) ∧
    ((s.chan c).state = .releasing →
      ∃ t, exec (.releaseTimeout c) s = .next t ∧ t.chan c = {} ∧ t.cha.holdoff = s.cha.holdoff ∧
        (∀ d, d ≠ c → t.chan d = s.chan d) ∧ s.counted t [.releaseTimeouts] ∧
        s.changesOnly t [.cha, .counters]) ∧
    ((s.chan c).state = .bound → (s.chan c).port = none →
      ∃ t, exec (.assignmentExpiry c) s = .next t ∧
        t.chan c = { state := .releasing,
                     timer := if s.sect.releaseTimeout = 0 then 1 else s.sect.releaseTimeout } ∧
        t.cha.holdoff = s.cha.holdoff ∧ (∀ d, d ≠ c → t.chan d = s.chan d) ∧
        s.counted t [.assignmentsExpired] ∧ s.changesOnly t [.cha, .counters])) ∧
  (∀ (s : State) (c : ChanNo), s.ccl.queue = [] → (s.chan c).state = .bound → (s.chan c).port = none →
    (s.chan c).withdrawDue = true →
    (∀ d, d ≠ c → (s.chan d).state = .bound → (s.chan d).withdrawDue = false) →
      ∃ t, exec .withdrawal s = .next t ∧ t.chan c = {} ∧ t.cha.holdoff = s.cha.holdoff ∧
        (∀ d, d ≠ c → t.chan d = s.chan d) ∧ s.counted t [.withdrawals] ∧ s.changesOnly t [.cha, .counters]) ∧
  ∀ (s : State) (c : ChanNo),
    ((s.voice c).block = 64 → s.sect.agcEnable = true →
      let v := s.voice c
      let a :=
        if s.sect.agcHigh < v.peak then max s.sect.aMin (min s.sect.aMax (v.gain - 2))
        else if s.sect.agcFloor < v.peak ∧ v.peak < s.sect.agcLow then
          max s.sect.aMin (min s.sect.aMax (v.gain + 1))
        else v.gain
      ∃ t, exec (.agcBlock c) s = .next t ∧ t.voice c = { v with gain := a, peak := 0, block := 0 } ∧
        (∀ d, d ≠ c → t.voice d = s.voice d) ∧ t.vcn.uplink = s.vcn.uplink ∧ s.changesOnly t [.vcn]) ∧
    ((s.chan c).state = .bound → (s.chan c).port ≠ none → (s.voice c).missing = 16 →
      (s.voice c).lastDown ≠ 0 →
      ∃ t, exec (.missingCountFull c) s = .next t ∧ t.voice c = { s.voice c with lastDown := 0 } ∧
        (∀ d, d ≠ c → t.voice d = s.voice d) ∧ t.vcn.uplink = s.vcn.uplink ∧ s.changesOnly t [.vcn])

/-- R73 and R78 with R60; R43 for the calls that were RINGING, R42 for the CALL entries; R72 for an unattached entry. That created-at and the age counter of a closed call stay is the model's reading (DEDUCED, log entry 15). The rules that a frame's claim decision and quota counts precede its withdrawals are the model's order of steps (log entry 7). -/
def Obligations.WithdrawnCallsWaitAgain : Prop :=
  ∀ s : State,
    (s.queueKept → s.bindingsKept → s.withdrawalDue = true →
      let gone : ChanEntry → Bool := fun e => decide (e.state = .bound) && e.withdrawDue
      ∃ t, exec .withdrawal s = .next t ∧
        (∀ c, gone (s.chan c) = true → t.chan c = {}) ∧
        (∀ c, gone (s.chan c) = false →
          t.chan c = s.chan c ∨
            ((s.chan c).state = .bound ∧ (s.chan c).port = none ∧
              ∃ p, t.chan c = { s.chan c with port := some p, timer := 0 })) ∧
        t.cha.holdoff = s.cha.holdoff ∧ s.withdrawn t gone ∧
        (s.unattached = none →
          (∀ c, t.chan c = if gone (s.chan c) = true then {} else s.chan c) ∧ s.reestablished t gone)) ∧
    (s.queueKept → s.bindingsKept → s.prc.holdEndDue = true → s.prc.service = none →
      ∃ t, exec .switchoverHoldEnd s = .next t ∧ (∀ c, t.chan c = {} ∨ s.chan c = t.chan c) ∧
        (∀ c, (t.chan c).state = .none) ∧ s.reestablished t (fun e => decide (e.state ≠ .none)) ∧
        s.withdrawn t (fun e => decide (e.state ≠ .none)) ∧
        t.cha.holdoff = s.cha.holdoff ∧ t.prc = { s.prc with holdEndDue := false }) ∧
    (s.prc.holdEndDue = true → s.prc.service ≠ none →
      ∃ t, exec .switchoverHoldEnd s = .next t ∧ t.prc = { s.prc with holdEndDue := false } ∧
        s.changesOnly t [.prc])

/-- The tables of R68, R71 and R75, R70, R72 and R67, and R73 with R77; R65 with R97 for a duplicate number; R76 and R115 for the voice. That an entry whose withdrawal is due still counts as BOUND here is the model's choice (DESIGN CHOICE, log entry 7); that all 20 tags, not only GRANT(self) on NONE entries (R71), are taken in ascending order of channel, and the voice after them by the entries as the tags leave them, is the model's reading (DEDUCED, log entry 8). -/
def Obligations.TagsActOnTheirEntry : Prop :=
  (∀ (s : State) (f0 f : Frame) (c : ChanNo),
    let tag := tagOf f0 c
    let mine := tag.node = s.straps
    let r := applyTag f0 (s, f) c
    let conflict := mine ∧ (tag.kind = .claim ∨ tag.kind = .release)
    let givenBack := r.1.chan c = { state := .releasing, timer := atLeastOne s.sect.releaseTimeout } ∧
      tagOf r.2 c = ⟨.release, s.straps⟩ ∧ voiceOf r.2 c = 0 ∧
      ∀ d, d ≠ c → tagOf r.2 d = tagOf f d ∧ voiceOf r.2 d = voiceOf f d
    let offered := fun (p : PortNo) =>
      r.2 = f ∧ r.1.chan c = { state := .bound, port := some p } ∧ r.1.voice c = { gain := s.sect.aInit } ∧
        r.1.record p = { s.record p with
          state := .offered, channel := some c, lastChannel := some c, announced := true, time := 0 } ∧
        r.1.ccl.queue = s.ccl.queue.filter (fun q => !decide (q = p)) ∧
        (s.inBypass = false → r.1.listedAfresh (.call p)) ∧
        (∀ q, q ≠ p → r.1.record q = s.record q) ∧ ∀ d, d ≠ c → r.1.chan d = s.chan d
    (conflict →
      r.2 = f ∧ s.counted r.1 [.numberConflicts] ∧ s.changesOnly r.1 [.cha, .sgu, .counters] ∧
        (s.inBypass = true ∨ s.sgu.flags.numberConflict = true → r.1.sgu = s.sgu) ∧
        (s.inBypass = false → s.sgu.flags.numberConflict = false →
          r.1.sgu.flags = { s.sgu.flags with numberConflict := true } ∧ r.1.listedAfresh .node ∧
            ∀ k, k ≠ .node → entryOf r.1.sgu.reports k = entryOf s.sgu.reports k)) ∧
    (∀ d, d ≠ c → r.1.chan d = s.chan d ∨ (s.chan c).state = .none) ∧
    ((s.chan c).state = .releasing →
      (tag.kind = .grant → mine →
        r.1 = s ∧ tagOf r.2 c = ⟨.release, s.straps⟩ ∧ voiceOf r.2 c = 0 ∧
          ∀ d, d ≠ c → tagOf r.2 d = tagOf f d ∧ voiceOf r.2 d = voiceOf f d) ∧
      (conflict → r.1.chan c = s.chan c ∧ r.2 = f) ∧
      (¬ (tag.kind = .grant ∧ mine) → ¬ conflict →
        r.1.chan c = {} ∧ r.2 = f ∧ s.changesOnly r.1 [.cha])) ∧
    ((s.chan c).state = .bound →
      r.2 = f ∧
      (0 < s.prc.hold → r.1.chan c = s.chan c) ∧
      (s.prc.hold = 0 → tag.kind = .grant → mine →
        r.1.chan c = { s.chan c with mismatch := 0, withdrawDue := false }) ∧
      (s.prc.hold = 0 → ¬ (tag.kind = .grant ∧ mine) →
        (r.1.chan c).state = .bound ∧ (r.1.chan c).port = (s.chan c).port ∧
          (r.1.chan c).mismatch = satSucc (s.chan c).mismatch ∧
          (r.1.chan c).withdrawDue =
            decide ((if s.sect.withdrawCount = 0 then 1 else s.sect.withdrawCount) ≤
              satSucc (s.chan c).mismatch))) ∧
    ((s.chan c).state = .claimed →
      (tag.kind = .free →
        r.1 = s ∧ tagOf r.2 c = ⟨.claim, s.straps⟩ ∧ voiceOf r.2 c = voiceOf f c) ∧
      (tag.kind = .claim ∨ tag.kind = .release → r.1.chan c = s.chan c ∧ r.2 = f) ∧
      (tag.kind = .blocked ∨ (tag.kind = .grant ∧ ¬ mine) →
        r.1.chan c = {} ∧ r.2 = f ∧ s.counted r.1 [.claimsLost] ∧ s.changesOnly r.1 [.cha, .counters]) ∧
      (tag.kind = .grant → mine →
        (s.ccl.queue = [] →
          givenBack ∧ s.counted r.1 [.claimsWon, .wastedWins] ∧ s.changesOnly r.1 [.cha, .counters]) ∧
        (∀ p, s.ccl.queue.head? = some p → (s.record p).state = .waiting →
          offered p ∧ s.counted r.1 [.claimsWon]))) ∧
    ((s.chan c).state = .none →
      (¬ (tag.kind = .grant ∧ mine) → ¬ conflict → r = (s, f)) ∧
      (conflict → r.1.cha = s.cha ∧ r.2 = f) ∧
      (tag.kind = .grant → mine →
        (min s.sect.quota 8 ≤ s.heldChannels →
          givenBack ∧ s.counted r.1 [.assignmentsRefused] ∧ s.changesOnly r.1 [.cha, .counters]) ∧
        (s.heldChannels < min s.sect.quota 8 →
          (s.ccl.queue = [] →
            r.1.chan c = { state := .bound, timer := if s.sect.assignTimeout = 0 then 1 else s.sect.assignTimeout } ∧
              r.2 = f ∧ s.changesOnly r.1 [.cha] ∧ ∀ d, d ≠ c → r.1.chan d = s.chan d) ∧
          (∀ p, s.ccl.queue.head? = some p → (s.record p).state = .waiting → s.unattached = none →
            offered p ∧ s.counted r.1 []))))) ∧
  (∀ (s : State) (f0 f : Frame) (c : ChanNo),
    let r := exchangeVoice f0 (s, f) c
    let tag := tagOf f0 c
    let meets := tag.kind = .grant ∧ tag.node = s.straps
    (∀ p, (s.chan c).state = .bound → (s.chan c).port = some p → meets →
      r.2 = putVoice f c s.vcn.uplink[p] ∧ (sampleOk s.vcn.uplink[p] → voiceOf r.2 c = s.vcn.uplink[p]) ∧
        r.1.voice c = { s.voice c with
          lastDown := clampInt (-8191) 8191
            (roundAway (clampInt (-8192) 8191 (voiceOf f0 c) * (s.post p).gainDown) 64),
          missing := 0, received := true } ∧
        (∀ d, d ≠ c → r.1.voice d = s.voice d ∧ voiceOf r.2 d = voiceOf f d) ∧ s.changesOnly r.1 [.vcn]) ∧
    ((s.chan c).state ≠ .bound ∨ (s.chan c).port = none ∨ ¬ meets → r = (s, f))) ∧
  ∀ (s : State) (f : Frame),
    let x := allChans.foldl (exchangeVoice f) (allChans.foldl (applyTag f) (s, f))
    let u := x.1
    let r := s.chaFrame f
    let can := fun (c : ChanNo) =>
      (tagOf f c).kind = .free ∧ (s.chan c).state = .none ∧ (u.chan c).state = .none
    let may := u.ccl.queue ≠ [] ∧ (∀ c, (u.chan c).state ≠ .claimed) ∧ u.unattached = none ∧
      u.heldChannels < min u.sect.quota 8 ∧ u.cha.holdoff = 0 ∧ u.prc.hold = 0
    (∀ c, may → can c → (∀ d, d < c → ¬ can d) →
      r.1.chan c = { state := .claimed, timer := if u.sect.claimTimeout = 0 then 1 else u.sect.claimTimeout } ∧
        tagOf r.2 c = ⟨.claim, u.straps⟩ ∧ (∀ d, d ≠ c → r.1.chan d = u.chan d ∧ tagOf r.2 d = tagOf x.2 d) ∧
        (∀ d, voiceOf r.2 d = voiceOf x.2 d) ∧ r.1.cha.holdoff = u.cha.holdoff ∧ u.changesOnly r.1 [.cha]) ∧
    (¬ may ∨ (∀ c, ¬ can c) → r = x)

/-- R91 and R92, with R54 and R44; R90 for the timeout; R174 for the fields of an echo. That the echo is compared in the bits of its field alone, and in all eight for a state and a reason, is the model's reading (DEDUCED, log entry 27). -/
def Obligations.AcksConfirmTheirEntry : Prop :=
  (∀ (s : State) (port ref echo : Byte), s.inBypass = false →
    (∀ p, portOfByte port = some p → s.echoes (.fault p) echo = true →
      ∃ t, exec (.ack 2 port ref echo) s = .next t ∧
        t.sgu.reports = dropEntry s.sgu.reports (.fault p) ∧ t.sgu.flags = s.sgu.flags ∧
        s.counted t [.commandsTaken] ∧ s.changesOnly t [.sgu, .counters]) ∧
    (s.echoes .node echo = true →
      ∃ t, exec (.ack 4 port ref echo) s = .next t ∧
        t.sgu.reports = dropEntry s.sgu.reports .node ∧
        t.sgu.flags.restarted = (s.sgu.flags.restarted && !echo.getLsbD 0) ∧
        t.sgu.flags.numberConflict = (s.sgu.flags.numberConflict && !echo.getLsbD 1) ∧
        t.sgu.flags.bypassLeft = (s.sgu.flags.bypassLeft && !echo.getLsbD 2) ∧
        s.counted t [.commandsTaken] ∧ s.changesOnly t [.sgu, .counters]) ∧
    (∀ p e, portOfByte port = some p →
      s.ccl.closing.find? (fun e => decide (e.port = p) &&
        decide (e.ref = if ref = 0 then none else some ref.toNat) && s.echoes (.close e.entry) echo) = some e →
      ∃ t, exec (.ack 3 port ref echo) s = .next t ∧
        t.sgu.reports = dropEntry s.sgu.reports (.close e.entry) ∧
        t.ccl = { s.ccl with closing := s.ccl.closing.filter (fun x => !decide (x.entry = e.entry)) } ∧
        s.counted t [.commandsTaken] ∧ s.changesOnly t [.ccl, .sgu, .counters]) ∧
    (∀ p, portOfByte port = some p → (s.record p).ref = some ref.toNat →
      s.echoes (.call p) echo = true →
      (echo ≠ 2 ∨ (s.record p).state ≠ .offered →
        ∃ t, exec (.ack 1 port ref echo) s = .next t ∧
          t.sgu.reports = dropEntry s.sgu.reports (.call p) ∧ s.counted t [.commandsTaken] ∧
          s.changesOnly t [.sgu, .counters]) ∧
      (echo = 2 → (s.record p).state = .offered → (s.record p).announced = true →
        ∃ t, exec (.ack 1 port ref echo) s = .next t ∧
          t.record p = { s.record p with state := .alerting, time := 0 } ∧ t.listedAfresh (.call p) ∧
          (∀ q, q ≠ p → t.record q = s.record q) ∧ s.counted t [.commandsTaken])) ∧
    (∀ kind : Byte, ackFields kind port = true → s.ackMatch kind (portOfByte port) ref echo = none →
      ∃ t, exec (.ack kind port ref echo) s = .next t ∧ t.sgu.reports = s.sgu.reports ∧
        s.counted t [.commandsTaken, .staleAcks] ∧ s.changesOnly t [.sgu, .counters]) ∧
    (∀ kind : Byte,
      kind.toNat = 0 ∨ 4 < kind.toNat ∨ (kind.toNat ≠ 4 ∧ 32 ≤ port.toNat) →
      ∃ t, exec (.ack kind port ref echo) s = .next t ∧ t.sgu.reports = s.sgu.reports ∧
        s.counted t [.badCommands] ∧ s.changesOnly t [.sgu, .counters]) ∧
    (∀ (k : EntryKey) (e : ReportEntry), entryOf s.sgu.reports k = some e → ∀ kept : Byte,
      e.echo = some kept →
        s.echoes k echo = match k with
          | .fault _ => decide (kept = echo &&& 0x7F)
          | .node => decide (kept = echo &&& 0x07)
          | .call _ => decide (kept = echo)
          | .close _ => decide (kept = echo))) ∧
  ∀ (s : State) (k : EntryKey) (e : ReportEntry),
    entryOf s.sgu.reports k = some e → e.status = .sent → e.timer = 0 →
      ∃ t, exec (.confirmTimeout k) s = .next t ∧
        entryOf t.sgu.reports k = some { e with status := .listed, timer := 0 } ∧
        dropEntry t.sgu.reports k = dropEntry s.sgu.reports k ∧
        (isFirstTier k = false → t.sgu.reports.getLast? = some { e with status := .listed, timer := 0 }) ∧
        (isFirstTier k = true → s.reportsKept →
          (t.sgu.reports.filter (fun x => isFirstTier x.key)).getLast? =
            some { e with status := .listed, timer := 0 }) ∧
        s.counted t [.relists] ∧ s.changesOnly t [.sgu, .counters]

/-- R82 to R85, R89, R166, R168 and R90. The model's own: REPORT_SEND follows the boundary of its frame time in frame 0, and a REPORT cell for which none was composed passes and is not counted as spoiled (DESIGN CHOICE, log entry 9); a part out of its order raises next part in every processed frame, also one that begins no node frame time (DESIGN CHOICE, log entry 40); the node byte of a cell and of a message is compared whole (DEDUCED, log entry 27); a field of frame number 0 and kind EMPTY offers itself to a HELD reply also where it ends a reply in writing (DESIGN CHOICE, log entry 38); it does so with no reply HELD where a node frame time begins with it, whose boundary may bring one (DEDUCED, log entry 10). -/
def Obligations.WritesIntoThePassingFrame : Prop :=
  (∀ (s : State) (i : RingInput) (f : Frame), cellKind (byteAt f 85) = .empty →
    let r := s.cellBegins i f
    let taken := (if frameNumber f = 0 ∧ s.rif.ended ≠ none then 0 else s.sgu.cellsTaken) <
        min (if s.sect.cellShare = 0 then 1 else s.sect.cellShare) 4 ∧
      ∃ e ∈ s.sgu.reports, e.status = .listed
    r.2 = f ∧ r.1.sgu.cell = frameNumber f / 4 ∧ r.1.sgu.nextPart = 1 ∧ r.1.sgu.spoiled = false ∧
      ((s.sgu.report ≠ none → s.sgu.role = .report) → r.1.sgu.report = none) ∧
      r.1.sgu.reports = s.sgu.reports ∧ r.1.sgu.cellsTaken = s.sgu.cellsTaken ∧
      (taken → r.1.sgu.role = .report ∧ r.1.sgu.emptyCell = some i) ∧
      (¬ taken → r.1.sgu.role = .pass ∧ r.1.sgu.emptyCell = none)) ∧
  (∀ (s : State) (i : RingInput) (f : Frame), frameNumber f % 4 = 0 → cellKind (byteAt f 85) ≠ .empty →
    let r := s.sguFrame i f
    let mine := cellKind (byteAt f 85) = .command ∧ byteAt f 86 = s.straps.zeroExtend 8
    r.1.sgu.cell = frameNumber f / 4 ∧ r.1.sgu.nextPart = 1 ∧ r.1.sgu.spoiled = false ∧
      r.1.sgu.emptyCell = none ∧
      (mine → r.1.sgu.role = .consume ∧ r.1.sgu.command = signalOf f ∧ r.2 = putSignal f emptyFill 0) ∧
      (¬ mine → r.1.sgu.role = .pass ∧ r.2 = f)) ∧
  (∀ (s : State) (i : RingInput) (f : Frame),
    s.sgu.role = .consume → frameNumber f = 4 * s.sgu.cell + s.sgu.nextPart → frameNumber f % 4 ≠ 0 →
      let r := s.sguFrame i f
      let bytes := s.sgu.command ++ signalOf f
      r.2 = putSignal f emptyFill s.sgu.nextPart ∧
        (s.sgu.nextPart < 3 →
          r.1.sgu = { s.sgu with command := bytes, nextPart := s.sgu.nextPart + 1 } ∧ s.changesOnly r.1 [.sgu]) ∧
        (s.sgu.nextPart = 3 →
          r.1.sgu.role = .none ∧ s.changesOnly r.1 [.sgu, .counters] ∧
          (∀ c, s.sgu.spoiled = false → decodeCommand (cellOfList bytes) = some c →
            r.1.sgu.dueCommand = some c ∧ s.counted r.1 []) ∧
          (s.sgu.spoiled = true ∨ decodeCommand (cellOfList bytes) = none →
            r.1.sgu.dueCommand = s.sgu.dueCommand ∧ s.counted r.1 [.badCommands]))) ∧
  (∀ (s : State) (i : RingInput) (f : Frame),
    let r := s.mgaFrame i f f
    let n := frameNumber f
    let a := s.mga.assembly
    let bytes := a.bytes ++ mgmtOf f
    let request := fun (l : List Byte) =>
      l.getD 0 0 = 1 ∧ l.getD 1 0 = s.straps.zeroExtend 8 ∧ 2 ≤ l.length
    (s.mga.writing = none → r.2 = f ∧ r.1.mga.writing = none) ∧
      (∀ w, s.mga.writing = some w →
        (n = w.next → r.2 = putMgmt f w.reply n ∧
          r.1.mga.writing = (if n = 15 then none else some { w with next := n + 1 }) ∧
          r.1.count .repliesSpoiled = s.count .repliesSpoiled) ∧
        (n ≠ w.next → r.2 = f ∧ r.1.mga.writing = none ∧
          r.1.count .repliesSpoiled = satSucc (s.count .repliesSpoiled))) ∧
      (n = 0 → r.1.mga.assembly = { next := 1, bytes := mgmtOf f, spoiled := false } ∧
        r.1.mga.taken = s.mga.taken ∧
        r.1.mga.emptyStart =
          (if byteAt f 88 = 0 ∧ (s.mga.buffer ≠ none ∨ s.rif.ended ≠ none) then some i else none) ∧
        r.1.count .messagesSpoiled =
          if 0 < a.next ∧ a.next < 16 ∧ request a.bytes then satSucc (s.count .messagesSpoiled)
          else s.count .messagesSpoiled) ∧
      (n ≠ 0 → n ≠ a.next → r.1.mga.assembly = { a with spoiled := true } ∧ r.1.mga.taken = s.mga.taken) ∧
      (n ≠ 0 → n = a.next →
        r.1.mga.assembly = { a with next := n + 1, bytes := bytes } ∧ r.1.mga.emptyStart = none ∧
        (n < 15 → r.1.mga.taken = s.mga.taken) ∧
        (n = 15 → a.spoiled = false → request bytes →
          r.1.mga.taken = some (decodeRequest (messageOfList bytes)) ∧
            r.1.count .messagesSpoiled = s.count .messagesSpoiled) ∧
        (n = 15 → a.spoiled = false → ¬ request bytes →
          r.1.mga.taken = s.mga.taken ∧ r.1.count .messagesSpoiled = s.count .messagesSpoiled) ∧
        (n = 15 → a.spoiled = true →
          r.1.mga.taken = s.mga.taken ∧
            r.1.count .messagesSpoiled =
              if request bytes then satSucc (s.count .messagesSpoiled) else s.count .messagesSpoiled))) ∧
  (∀ (s : State) (i : RingInput) (f : Frame),
    (s.input i).lastClass = .good → (s.input i).store = some f →
      (∀ (k : EntryKey) (e : ReportEntry) (cell : CellBytes) (echo : Byte),
        s.sgu.emptyCell = some i → s.sgu.role = .report → s.sgu.report = none → s.sgu.nextPart = 1 →
        (s.sgu.cell ≠ 0 ∨ (s.rif.ended = none ∧ s.rif.clock.boundaryDue = false)) →
        s.sgu.cellsTaken < min (if s.sect.cellShare = 0 then 1 else s.sect.cellShare) 4 →
        s.sgu.reports.find? (fun e => decide (e.status = .listed)) = some e → e.key = k →
        s.reportsKept → s.compose k = some (cell, echo) →
          ∃ t, exec .reportSend s = .next t ∧ t.sgu.role = .report ∧ t.sgu.report = some cell ∧
            t.sgu.cellsTaken = s.sgu.cellsTaken + 1 ∧ t.sgu.emptyCell = none ∧
            t.sgu.reports.map (fun e => e.key) = s.sgu.reports.map (fun e => e.key) ∧
            entryOf t.sgu.reports k =
              some { e with
                status := .sent, echo := some echo,
                timer := if s.sect.reportConfirm = 0 then 1 else s.sect.reportConfirm } ∧
            (t.input i).store = some (withCheck (putSignal f cell 0)) ∧
            (∀ o, t.outFrame o =
              if (s.out o).source = some i then (s.outFrame o).map (fun g => withCheck (putSignal g cell 0))
              else s.outFrame o) ∧
            s.counted t [.reportsSent] ∧ s.changesOnly t [.sgu, .rif, .counters]) ∧
      (∀ m : Message, s.mga.emptyStart = some i → s.mga.buffer = some m → s.mga.writing = none →
          ∃ t, exec .replyWrite s = .next t ∧ t.mga.buffer = none ∧
            t.mga.writing = some { reply := m, next := 1 } ∧
            (t.input i).store = some (withCheck (putMgmt f m 0)) ∧
            (∀ o, t.outFrame o =
              if (s.out o).source = some i then (s.outFrame o).map (fun g => withCheck (putMgmt g m 0))
              else s.outFrame o) ∧
            s.counted t [] ∧ s.changesOnly t [.mga, .rif])) ∧
  ∀ (s : State) (i : RingInput) (f : Frame), s.sgu.role = .report → frameNumber f % 4 ≠ 0 →
    let r := s.sguFrame i f
    let due := frameNumber f = 4 * s.sgu.cell + s.sgu.nextPart
    (∀ cell, due → s.sgu.report = some cell → r.2 = putSignal f cell s.sgu.nextPart) ∧
      (¬ due ∨ s.sgu.report = none → r.2 = f) ∧
      (s.sgu.nextPart < 3 →
        r.1.sgu = { s.sgu with nextPart := s.sgu.nextPart + 1, spoiled := s.sgu.spoiled || !decide due } ∧
          s.changesOnly r.1 [.sgu]) ∧
      (3 ≤ s.sgu.nextPart →
        r.1.sgu.role = .none ∧ r.1.sgu.report = none ∧ r.1.sgu.reports = s.sgu.reports ∧
          s.changesOnly r.1 [.sgu, .counters] ∧
          s.counted r.1 (if (s.sgu.spoiled = true ∨ ¬ due) ∧ s.sgu.report ≠ none then [.reportsSpoiled] else []))

/-- R101 and R103; R15, R105 and R59 for the ring cadence. That the step index of an exhausted cadence stops at 3 is the model's choice (log entry 31). -/
def Obligations.CadencePhasesEnd : Prop :=
  ∀ (s : State) (p : PortNo) (cp : CadenceCopy) (st : CadenceStep),
    let c := s.cadence p
    let l := cp.steps.takeWhile (fun st => decide (0 < st.on ∨ 0 < st.off))
    let ended := c.phase = .off ∨ st.off = 0
    let enter := fun (c : Cadence) (st : CadenceStep) =>
      if 0 < st.on then { c with phase := .on, remaining := st.on, acc1 := 0, acc2 := 0 }
      else { c with phase := .off, remaining := st.off }
    let now := s.tbs.active.cadence (s.sect.selection c.role)
    let begins : Option (Cadence × CadenceStep) :=
      match l[c.step + 1]? with
      | some nx => some ({ c with step := c.step + 1 }, nx)
      | none =>
        if cp.repeats = 0 ∨ 1 < c.repeatsLeft then
          if now = cp then
            l[0]?.map (fun s0 =>
              ({ c with
                step := 0, repeatsLeft := if cp.repeats = 0 then c.repeatsLeft else c.repeatsLeft - 1 }, s0))
          else
            (now.steps.takeWhile (fun st => decide (0 < st.on ∨ 0 < st.off)))[0]?.map (fun s0 =>
              ({ c with step := 0, copy := some now, repeatsLeft := now.repeats }, s0))
        else none
    c.phase = .on ∨ c.phase = .off → c.remaining = 0 → c.copy = some cp → l[c.step]? = some st →
      (c.role ≠ .ring →
        ∃ t, exec (.cadencePhaseEnd p) s = .next t ∧ s.changesOnly t [.tgn] ∧
          (∀ q, q ≠ p → t.cadence q = s.cadence q) ∧
          (c.phase = .on → 0 < st.off → t.cadence p = { c with phase := .off, remaining := st.off }) ∧
          (∀ x : Cadence × CadenceStep, ended → begins = some x → t.cadence p = enter x.1 x.2) ∧
          (ended → l[c.step + 1]? = none → cp.repeats ≠ 0 → c.repeatsLeft ≤ 1 →
            (t.cadence p).phase = .exhausted ∧ (t.cadence p).acc1 = 0 ∧ (t.cadence p).acc2 = 0 ∧
              (t.cadence p).repeatsLeft = 0 ∧ (t.cadence p).step = min 3 (c.step + 1) ∧ t.toneSample p = 0)) ∧
      (c.role = .ring → (s.record p).state = .ringing → ended → l[c.step + 1]? = none → cp.repeats ≠ 0 →
        c.repeatsLeft ≤ 1 → s.ccl.closing.length < 8 →
        ∃ t, exec (.cadencePhaseEnd p) s = .next t ∧ (t.record p).state = .idle ∧
          (t.cadence p).role = .none ∧
          (∃ e, t.ccl.closing = s.ccl.closing ++ [e] ∧ e.port = p ∧ e.reason = .noAnswer ∧
            e.ref = (s.record p).ref) ∧
          ∀ q, q ≠ p → t.record q = s.record q) ∧
      (c.role = .ring → (s.record p).state = .ringing → (s.post p).enabled = true →
        s.lsv.testPort ≠ some p → (s.line p).drive ≠ .reversed → s.ccl.closing.length < 8 →
        (c.phase = .on → 0 < st.off →
          ∃ t, exec (.cadencePhaseEnd p) s = .next t ∧ t.cadence p = { c with phase := .off, remaining := st.off } ∧
            t.line p = { s.line p with drive := .normal } ∧ t.ccl = s.ccl ∧ s.counted t [] ∧
            s.changesOnly t [.lsv, .tgn]) ∧
        (∀ x : Cadence × CadenceStep, ended → begins = some x → x.2.on = 0 →
          ∃ t, exec (.cadencePhaseEnd p) s = .next t ∧ t.cadence p = enter x.1 x.2 ∧
            t.line p = { s.line p with drive := .normal } ∧ t.ccl = s.ccl ∧ s.counted t [] ∧
            s.changesOnly t [.lsv, .tgn]) ∧
        (∀ x : Cadence × CadenceStep, ended → begins = some x → 0 < x.2.on →
          ∃ t, exec (.cadencePhaseEnd p) s = .next t ∧ (t.line p).brake = false ∧
            ((s.line p).brake = false ∨ (s.sect.ringAutoRestart = true ∧ (s.line p).settled ≠ .short) →
              t.cadence p = enter x.1 x.2 ∧
                t.line p = { s.line p with brake := false, drive := .ring } ∧ t.ccl = s.ccl ∧
                s.counted t [] ∧ s.changesOnly t [.lsv, .tgn]) ∧
            ((s.line p).brake = true →
              s.sect.ringAutoRestart = false ∨ (s.line p).settled = .short →
              (t.record p).state = .idle ∧ (t.cadence p).role = .none ∧ (t.line p).drive = .normal ∧
                (∃ e, t.ccl.closing = s.ccl.closing ++ [e] ∧ e.port = p ∧ e.reason = .noAnswer ∧
                  e.ref = (s.record p).ref) ∧
                ∀ q, q ≠ p → t.record q = s.record q)))

/-- R120, R121 and R135. R128, R130 and R131 for the clock, R147 for the samples, R138 for follow-active. The model's choices: the arrival as a run of bytes with its place, the timing counted in bit times modulo a frame time (log entry 5); the moment of a realignment, and a frame composed outside RUNNING that keeps its samples of 0 (log entry 6); the row taken at the mark to which SEARCH moves the timing, and the frame time without a class that it cuts off (DEDUCED, log entry 41); the last marker kept through BAD and LOST frame times (log entry 20); a miss count that stood at 8 already reaches 8 again (log entry 36). -/
def Obligations.FrameTimesAreClassed : Prop :=
  (∀ (x : InputPort) (y : Arrival),
    (x.rx = .track → x.seen = [] →
      let mark := fun (j : Nat) => y.bytes.getD j 0 = 0xB6 ∧ y.bytes.getD (j + 1) 0 = 0x4E
      (∀ f, x.found y = some f ↔ y.shift = 0 ∧ mark 0 ∧ f = frameAt y.bytes 0) ∧
      (∀ j, j < y.bytes.length → 0 < y.shift + 8 * j → y.shift + 8 * j < 736 → mark j → (∀ k, k < j → ¬ mark k) →
        x.restart y = some (736 + (y.shift + 8 * j), y.bytes.drop j)) ∧
      ((∀ j, j < y.bytes.length → y.shift + 8 * j < 736 → ¬ mark j) → x.restart y = none)) ∧
    (x.rx = .track → x.seen ≠ [] → x.seenAt = 736 → markAt x.seen 0 = true →
      x.found y = some (frameAt (if y.shift = 8 * x.seen.length then x.seen ++ y.bytes else x.seen) 0)) ∧
    ∀ j, y.shift + 8 * j < 736 → 736 ≤ y.shift + 8 * (j + 1) → j + 1 < y.bytes.length →
      unseenOf y = (y.bytes.drop (j + 1), y.shift + 8 * (j + 1))) ∧
  (∀ (x : InputPort) (y : Arrival), x.rx = .search →
    let old := if x.seenAt + 8 * x.seen.length = 736 + y.shift then x.seen else []
    let l := old ++ y.bytes
    let till := if old = [] then 736 + y.shift else x.seenAt
    let mark := fun (j : Nat) => l.getD j 0 = 0xB6 ∧ l.getD (j + 1) 0 = 0x4E
    (∀ j, j < l.length → till + 8 * j < 1472 → mark j → (∀ k, k < j → ¬ mark k) →
      (till + 8 * j = 736 → x.found y = some (frameAt l j) ∧ x.restart y = none) ∧
      (till + 8 * j ≠ 736 → x.found y = none ∧ x.restart y = some (till + 8 * j, l.drop j))) ∧
    ((∀ j, j < l.length → till + 8 * j < 1472 → ¬ mark j) → x.found y = none ∧ x.restart y = none)) ∧
  ∀ (s : State) (i : RingInput) (a : Option Arrival),
    let x := s.input i
    let h := s.health i
    let found := x.found (a.getD ⟨0, []⟩)
    let restart := x.restart (a.getD ⟨0, []⟩)
    let lasts := match restart with | some y => y.1 - 736 | none => 736
    let classed := x.rx = .track ∨ restart = none
    let passed := lasts - x.since
    let age := s.rif.clock.age + passed
    ∃ t, exec (.inputFrameTime i a) s = .next t ∧
      (found = none →
        (t.input i).lastClass = .lost ∧ (t.input i).store = none ∧ (t.input i).lastMarker = x.lastMarker ∧
          (restart = none → (t.input i).rx = .search ∧ (t.input i).timing = x.timing ∧
            ((t.input i).seen, (t.input i).seenAt) = unseenOf (a.getD ⟨0, []⟩)) ∧
          (classed → i = .pin → t.count .lostFramesPin = satSucc (s.count .lostFramesPin)) ∧
          (classed → i = .sin → t.count .lostFramesSin = satSucc (s.count .lostFramesSin))) ∧
      (∀ d l, restart = some (d, l) → (t.input i).rx = .track ∧ (t.input i).timing = (x.timing + d) % 736 ∧
        (t.input i).seen = l ∧ (t.input i).seenAt = 736 ∧
        (t.input i).since = max x.since lasts + 736 - d) ∧
      (∀ f, found = some f →
        (t.input i).rx = .track ∧ (t.input i).seen = [] ∧ (t.input i).timing = x.timing ∧
          (checks f = true →
            (t.input i).lastClass = .good ∧ (t.input i).lastMarker = some (markerOf f)) ∧
          (checks f = false →
            (t.input i).lastClass = .bad ∧ (t.input i).store = some f ∧
              (t.input i).lastMarker = x.lastMarker ∧
              (i = .pin → t.count .badFramesPin = satSucc (s.count .badFramesPin)) ∧
              (i = .sin → t.count .badFramesSin = satSucc (s.count .badFramesSin)))) ∧
      (¬ classed →
        s.changesOnly t [.sgu, .mga, .rif, .hwc, .counters] ∧
          t.count .lostFramesPin = s.count .lostFramesPin ∧ t.count .lostFramesSin = s.count .lostFramesSin ∧
          t.count .badFramesPin = s.count .badFramesPin ∧ t.count .badFramesSin = s.count .badFramesSin) ∧
      ((t.input i).lastClass = .good → (t.input i).lastMarker = some .active →
        t.health i = { h with miss := 0, active := capSucc 16 h.active, idle := 0, downDue := false }) ∧
      ((t.input i).lastClass = .good → (t.input i).lastMarker ≠ some .active →
        t.health i = { h with miss := 0, active := 0, idle := capSucc 16 h.idle, downDue := false }) ∧
      (classed → (t.input i).lastClass ≠ .good →
        t.health i =
          { h with
            miss := capSucc 8 h.miss, upCount := 0, active := 0, idle := capSucc 16 h.idle,
            downDue := h.up && decide (capSucc 8 h.miss = 8) }) ∧
      (restart = none → (t.input i).since = 0) ∧
      (classed →
        (t.prc.followDue = true ↔
          s.prc.state = .through ∧ ∃ k, s.prc.service = some k ∧ (t.health k).idle = 16 ∧
            ∀ j, j ≠ k → (t.health j).active = 16)) ∧
      t.rif.clock.age = age ∧ t.rif.clock.number = s.rif.clock.number ∧
      t.rif.clock.superframe = s.rif.clock.superframe ∧ t.rif.clock.boundaryDue = s.rif.clock.boundaryDue ∧
      (s.rif.clock.reference ≠ some i →
        t.rif.ended = s.rif.ended ∧ t.rif.clock.timing = s.rif.clock.timing ∧
          t.rif.clock.spanning = s.rif.clock.spanning ∧ t.count .slips = s.count .slips ∧
          t.hwc.downlink = s.hwc.downlink) ∧
      (s.rif.clock.reference = some i →
        let moved := (t.input i).timing ≠ s.rif.clock.timing
        let spans := moved ∨ s.rif.clock.spanning = true
        t.rif.clock.timing = (t.input i).timing ∧
          t.rif.ended =
            (if 368 ≤ age - (t.input i).since ∨ (¬ spans ∧ 0 < age) then some i else none) ∧
          (t.rif.clock.spanning = true ↔ spans) ∧
          (moved → t.count .slips = satSucc (s.count .slips) ∧
            ∀ d, s.hwc.downlink = some d →
              t.hwc.downlink = some (if d.live then { d with voice := s.hwc.lastVoice, live := false } else d)) ∧
          (¬ moved → t.count .slips = s.count .slips ∧ t.hwc.downlink = s.hwc.downlink)) ∧
      ∀ j, j ≠ i → t.input j = { s.input j with since := (s.input j).since + passed } ∧ t.health j = s.health j

/-- R122 to R127, R130 and R132. That CHA, SGU and MGA take a processed frame in this order is the model's (DESIGN CHOICE, log entry 14). That a fill frame of a straight route carries the stepped numbers where the next node frame time begins at its slot is read from R127, R128 and R130 (DEDUCED, log entry 24). How long an output is still sending is reckoned from the lengths of frame times (log entry 5). A mark to which SEARCH moves the timing is a slot of the straight route, for which the input has no frame (DEDUCED, log entry 41). -/
def Obligations.FramesAreForwarded : Prop :=
  (∀ (s : State) (i : RingInput) (o : RingOutput) (a : Option Arrival),
    let found := (s.input i).found (a.getD ⟨0, []⟩)
    let restart := (s.input i).restart (a.getD ⟨0, []⟩)
    let lasts := match restart with | some y => y.1 - 736 | none => 736
    let passed := lasts - (s.input i).since
    let free := (s.out o).left ≤ passed
    let k := s.rif.clock
    let stepped : Nat × Nat :=
      if k.number < 15 then (k.number + 1, k.superframe) else (0, (k.superframe + 1) % 256)
    ∃ t, exec (.inputFrameTime i a) s = .next t ∧
      let numbers := if t.rif.ended = some i then stepped else (k.number, k.superframe)
      (¬ free ∨ s.prc.state.route o ≠ .straight i ∨ 0 < (t.input i).since → t.outFrame o = s.outFrame o) ∧
      (s.prc.state.route o = .straight i → free → found = none → (t.input i).since = 0 →
        t.outFrame o = some (fillFrame numbers.1 numbers.2) ∧ (t.out o).left = 736 ∧
          t.count o.fillCounter = satSucc (s.count o.fillCounter)) ∧
      (s.prc.state.route o = .straight i → free → found ≠ none →
        t.outFrame o = (t.input i).store ∧ (t.out o).left = 736 ∧
          t.count o.fillCounter = s.count o.fillCounter) ∧
      ∀ f, found = some f →
        (checks f = false ∨
          (s.inBypass = false ∧ (s.prc.service ≠ some i ∨ markerOf f ≠ .active)) ∨
          (s.inBypass = true ∧ (i = .sin ∨ s.prc.cause = some .straps)) → (t.input i).store = some f) ∧
        (checks f = true → markerOf f = .active → s.prc.service = some i → s.inBypass = false →
          t.count .framesProcessed = satSucc (s.count .framesProcessed) ∧
          (∃ g, (t.input i).store = some g ∧ checks g = true ∧ ∀ k, k < 5 → byteAt g k = byteAt f k) ∧
          let cha := ((s.receiveOn i (a.getD ⟨0, []⟩)).bump .framesProcessed).chaFrame f
          let sgu := cha.1.sguFrame i cha.2
          let mga := sgu.1.mgaFrame i f sgu.2
          (t.input i).store = some (withCheck mga.2) ∧ mga.1.changesOnly t [.rif, .counters]) ∧
        (checks f = true → i = .pin → s.inBypass = true → s.prc.cause ≠ some .straps →
          ∃ g, (t.input .pin).store = some g ∧ checks g = true ∧ (∀ k, k < 88 → byteAt g k = byteAt f k) ∧
            t.rif.fieldSeen = true ∧
            mgmtOf g = match s.mga.writing with
              | some w =>
                if frameNumber f = w.next then
                  [byteAt w.reply (2 * frameNumber f), byteAt w.reply (2 * frameNumber f + 1)]
                else mgmtOf f
              | none => mgmtOf f)) ∧
  ∀ (s : State) (o : RingOutput),
    let k := s.rif.clock
    let free := (s.out o).left ≤
      match k.reference, s.rif.ended with
      | none, _ => 736 - k.age
      | some _, some _ => 0
      | some i, none =>
        let next := 736 - (s.input i).since
        if k.spanning = true ∧ k.age + next < 368 then next + 736 else next
    ∃ t, exec .nodeFrameTime s = .next t ∧
      (¬ free → t.outFrame o = s.outFrame o) ∧
      (∀ i, s.prc.state.route o = .straight i → t.outFrame o = s.outFrame o) ∧
      (s.prc.state.route o = .fill → free →
        t.outFrame o = some (fillFrame t.rif.clock.number t.rif.clock.superframe) ∧ (t.out o).left = 736 ∧
          t.count o.fillCounter = satSucc (s.count o.fillCounter)) ∧
      (∀ i, s.prc.state.route o = .turned i →
        ((s.out o).source = some i → t.outFrame o = s.outFrame o) ∧
        ((s.out o).source ≠ some i → free →
          ((s.input i).lastClass = .lost →
            t.outFrame o = some (fillFrame t.rif.clock.number t.rif.clock.superframe) ∧
              t.count o.fillCounter = satSucc (s.count o.fillCounter)) ∧
          (∀ f, (s.input i).store = some f →
            ((s.input i).lastClass = .good → t.outFrame o = some (turnBack f) ∧ (t.out o).source = some i) ∧
            ((s.input i).lastClass = .bad → t.outFrame o = some f ∧ (t.out o).source = some i))))

/-- R128 and R129; R130 for the timing; R69, R75 and R77 for the timers; R82 for the cell; R166 and R168 for the field. The model's own: a change of service input made at the end of a node frame time moves the timing in the next one (DEDUCED, log entry 6); the timer of a RELEASING entry stands still in every node frame time that begins while the hold count is not 0, that at whose boundary the hold ends among them (DESIGN CHOICE, log entry 21). -/
def Obligations.NodeFrameTimesAreNumbered : Prop :=
  ∀ s : State,
    let k := s.rif.clock
    let stepped : Nat × Nat :=
      if k.number < 15 then (k.number + 1, k.superframe) else (0, (k.superframe + 1) % 256)
    ∃ t, exec .nodeFrameTime s = .next t ∧
      t.rif.clock.boundaryDue = decide (t.rif.clock.number = 0) ∧ t.rif.clock.age = 0 ∧ t.rif.ended = none ∧
      (let timing := match k.reference with | some i => (s.input i).timing | none => k.timing
       t.rif.clock.timing = timing ∧ t.rif.clock.spanning = decide (timing ≠ k.timing) ∧
         t.count .slips = if timing = k.timing then s.count .slips else satSucc (s.count .slips)) ∧
      t.rif.clock.phase = k.timing ∧
      (s.prc.service = none → t.rif.clock.following = false) ∧
      (s.prc.service ≠ none → t.rif.clock.following = k.following) ∧ t.rif.clock.reference = k.reference ∧
      (k.started = false →
        t.rif.clock.number = k.number ∧ t.rif.clock.superframe = k.superframe) ∧
      (∀ i f, k.started = true → s.rif.ended = some i →
        (s.input i).lastClass = .good → (s.input i).store = some f →
          t.rif.clock.number = frameNumber f ∧ t.rif.clock.superframe = frameSuper f ∧
            t.count .renumbers =
              if (frameNumber f, frameSuper f) = stepped then s.count .renumbers
              else satSucc (s.count .renumbers)) ∧
      (k.started = true →
        (s.rif.ended = none ∨ ∃ i, s.rif.ended = some i ∧ (s.input i).lastClass ≠ .good) →
          (t.rif.clock.number, t.rif.clock.superframe) = stepped ∧
            t.count .renumbers = s.count .renumbers) ∧
      (∀ c, t.chan c =
        if (s.chan c).state = .claimed ∨ ((s.chan c).state = .releasing ∧ s.prc.hold = 0) then
          { s.chan c with timer := (s.chan c).timer - 1 }
        else s.chan c) ∧
      t.cha.holdoff = s.cha.holdoff - 1 ∧ t.ccl = s.ccl ∧ t.lsv = s.lsv ∧ t.idd = s.idd ∧ t.tbs = s.tbs ∧
      (let g := s.sgu
       let inCell := g.role = .consume ∨ g.role = .report
       (s.rif.processed = true ∨ ¬ inCell → t.sgu = g) ∧
       (s.rif.processed = false → inCell →
         (g.nextPart < 3 → t.sgu = { g with spoiled := true, nextPart := g.nextPart + 1 }) ∧
         (3 ≤ g.nextPart → t.sgu.role = .none ∧ t.sgu.report = none ∧ t.sgu.dueCommand = g.dueCommand ∧
           t.sgu.reports = g.reports ∧
           (g.role = .consume → t.count .badCommands = satSucc (s.count .badCommands)) ∧
           (g.role = .report → g.report ≠ none →
             t.count .reportsSpoiled = satSucc (s.count .reportsSpoiled))))) ∧
      (s.rif.fieldSeen = true → t.mga = s.mga ∧ t.count .repliesSpoiled = s.count .repliesSpoiled) ∧
      (s.rif.fieldSeen = false →
        t.mga = { s.mga with
          assembly := { s.mga.assembly with
            spoiled := s.mga.assembly.spoiled || decide (0 < s.mga.assembly.next ∧ s.mga.assembly.next < 16) },
          writing := none } ∧
        t.count .repliesSpoiled =
          if s.mga.writing = none then s.count .repliesSpoiled else satSucc (s.count .repliesSpoiled))

/-- R147 with R117 and R146; R106 for the accumulators, R104 for the tables, R130 for the repeated samples; R153: the frame that carries an UNSENT access is the next one composed. The model's own: every sample is 0 in RESTARTING and SETTLING also where the frame time spans a realignment, for which R147 says both (DESIGN CHOICE, log entry 6); the frame numbered 0 is composed ahead of BANK_SWITCH, which forms its tones afresh (DESIGN CHOICE, log entry 37). -/
def Obligations.DownlinkFramesAreComposed : Prop :=
  ∀ s : State, ∃ t, exec .nodeFrameTime s = .next t ∧ t.hwc.state = s.hwc.state ∧
    (∀ d, s.hwc.downlink = some d → t.hwc.lastVoice = d.voice) ∧
    let tone := fun (p : PortNo) => s.tbs.active.tone (((s.cadence p).copy.map CadenceCopy.tone).getD 0)
    let sounds := fun (p : PortNo) =>
      (s.cadence p).phase = .on ∧ (s.cadence p).role ≠ .none ∧ (s.cadence p).role ≠ .ring
    (∀ p, t.cadence p =
      if sounds p then
        { s.cadence p with
          acc1 := accStep (tone p).f1 (s.cadence p).acc1, acc2 := accStep (tone p).f2 (s.cadence p).acc2 }
      else s.cadence p) ∧
    (∀ c, t.voice c =
      if (s.chan c).state = .bound ∧ (s.chan c).port ≠ none then
        if (s.voice c).received then { s.voice c with received := false }
        else { s.voice c with missing := if (s.voice c).missing < 16 then (s.voice c).missing + 1 else 16 }
      else s.voice c) ∧
    (s.hwc.state = .running → t.hwc.access = s.hwc.access.map (fun a => { a with composed := true })) ∧
    (s.hwc.state = .restarting → t.hwc.access = s.hwc.access) ∧
    ∃ d, t.hwc.downlink = some d ∧ d.number = t.rif.clock.number ∧ d.access = none ∧
      (∀ p : PortNo, t.tgn.formed[p] = s.cadence p) ∧
      (s.hwc.state = .running → d.live = !t.rif.clock.spanning) ∧
      (s.hwc.state = .running → t.rif.clock.spanning = true → d.voice = t.hwc.lastVoice) ∧
      (s.hwc.state = .running → d.restart = false ∧ ∀ p : PortNo,
        d.drives[p] = (s.line p).drive ∧ (t.rif.clock.spanning = false →
          d.voice[p] =
            match (s.record p).state, (s.record p).channel with
            | .connected, some c => (t.voice c).heard
            | .connected, none => 0
            | .ringing, _ => 0
            | .parked, _ => 0
            | .idle, _ => 0
            | _, _ => if sounds p then toneSum (tone p) (s.cadence p).acc1 (s.cadence p).acc2 else 0)) ∧
      (s.hwc.state = .restarting ∨ (s.hwc.state = .settling ∧ t.hwc.phaseCount ≠ 0) →
        ∀ p : PortNo, d.drives[p] = .normal ∧ d.voice[p] = 0) ∧
      d.restart = (decide (s.hwc.state = .restarting) && decide (0 < t.hwc.phaseCount))

/-- R137: the table of states and service inputs. R129: the reference is the service input that PRC names. That it is absent in the very step that ceases to name one is the model's reading of R129 and R134 (DEDUCED, log entry 6). -/
def Obligations.ProtectionFollowsTheInputs : Prop :=
  ∀ s t : State, step s = .next t → (s.protKept → t.protKept) ∧ (s.clockKept → t.clockKept)

/-- R135 to R140 and R142; R82, R166 and R168 for the cell, the assembly and the reply in writing at a change of service input, where a REPORT cell with none composed is not counted (DESIGN CHOICE, log entry 9); R77 and R140 for the hold's end; R129 and R134 for the reference: that it is absent in the very step that ceases to name a service input is the model's reading (DEDUCED, log entry 6); that a frame time already longer than its full length then ends at once is its choice (DESIGN CHOICE, log entry 6). -/
def Obligations.ConditionsMoveTheService : Prop :=
  ∀ (s : State) (i : RingInput),
    let hold := if s.sect.switchoverHold = 0 then 1 else s.sect.switchoverHold
    let next := fun (up : Bool) =>
      match (if i = .pin then up else s.prc.pinHealth.up), (if i = .sin then up else s.prc.sinHealth.up) with
      | true, true => (ProtState.through, s.prc.service)
      | false, true => (ProtState.wrapA, some RingInput.sin)
      | true, false => (ProtState.wrapB, some RingInput.pin)
      | false, false => (ProtState.isolated, none)
    let after := fun (up : Bool) (t : State) =>
      t.health i = { s.health i with up := up, downDue := false } ∧
      (∀ j, j ≠ i → t.health j = s.health j) ∧ s.serviceTold t ∧
      (s.inBypass = true → s.changesOnly t [.prc, .counters] ∧ t.prc.state = s.prc.state ∧
        t.prc.service = s.prc.service ∧ t.prc.hold = s.prc.hold) ∧
      (s.inBypass = false → s.protKept →
        (t.prc.state, t.prc.service) = next up ∧ t.listedAfresh .node ∧
          ((next up).2 ≠ s.prc.service →
            t.prc.hold = hold ∧ t.prc.holdEndDue = false ∧ t.rif.clock.reference = (next up).2 ∧
              ((next up).2 = none →
                t.rif.clock.timing = (s.rif.clock.phase + max 736 s.rif.clock.age) % 736 ∧
                  t.rif.clock.spanning = false ∧ t.rif.ended = none ∧ t.untilNode = 736 - s.rif.clock.age ∧
                  t.count .slips = s.count .slips)) ∧
          ((next up).2 = s.prc.service → t.prc.hold = s.prc.hold) ∧
          t.count .isolations =
            if (next up).1 = .isolated then satSucc (s.count .isolations) else s.count .isolations)
    ((s.health i).up = true → (s.health i).downDue = true →
      ∃ t, exec (.inputDown i) s = .next t ∧ after false t ∧
        (i = .pin → t.count .lossesPin = satSucc (s.count .lossesPin)) ∧
        (i = .sin → t.count .lossesSin = satSucc (s.count .lossesSin))) ∧
    ((s.health i).up = false → (if s.sect.upHold = 0 then 1 else s.sect.upHold) ≤ (s.health i).upCount →
      ∃ t, exec (.inputUp i) s = .next t ∧ after true t) ∧
    (∀ j, j ≠ i → s.prc.state = .through → s.prc.service = some i → (s.health i).idle = 16 →
      (s.health j).active = 16 → s.prc.followDue = true →
      ∃ t, exec .followActive s = .next t ∧ t.prc.service = some j ∧ t.prc.state = .through ∧
        t.prc.hold = hold ∧ t.prc.holdEndDue = false ∧ t.listedAfresh .node ∧ s.serviceTold t ∧
        t.rif.clock.reference = some j ∧ t.rif.clock.following = true ∧ t.prc.followDue = false ∧
        t.count .serviceChanges = satSucc (s.count .serviceChanges) ∧ t.ccl = s.ccl ∧ t.cha = s.cha) ∧
    (s.prc.holdEndDue = true → s.prc.service = some i →
      ∃ t, exec .switchoverHoldEnd s = .next t ∧ t.prc = { s.prc with holdEndDue := false } ∧
        s.changesOnly t [.prc])

/-- R148, R149 and R151, with R9, R29 and R112 at a loss and R22 for a status word; PliAccessesRunTheirCourse says what becomes of the reply fields and of an access at a loss; R1, R2, R29, R33 and R35 for what is handed on, as MeasurementsReachTheirLine and BurstsAreJudged state it; R111 and R113 for the voice. The run length 0 of a failed decoder is the model's (DEDUCED, log entry 16). -/
def Obligations.UplinkFramesJudgeReadiness : Prop :=
  ∀ (s : State) (slots : Vector PliSlot 8),
    (s.hwc.state ≠ .running → exec (.uplinkFrame slots) s = .next s) ∧
    (s.hwc.state = .running → ∃ t, exec (.uplinkFrame slots) s = .next t ∧
      t.count .pliLosses =
        (allPlis.filter (fun j => (s.pli j).ready && !slotReady slots[j])).foldl (fun n _ => satSucc n)
          (s.count .pliLosses) ∧
      ∀ i : PliNo,
      ((s.pli i).ready = true → slotReady slots[i] = true →
        t.pli i = { s.pli i with status := slotStatus slots[i] } ∧
        (let w := slotStatus slots[i]
         ∀ l : Fin 4,
           let p := portAt i l
           let old := (s.line p).faults
           let new := (t.line p).faults
           (w = (s.pli i).status ∨ (s.post p).enabled = false →
             new.feedLimit = old.feedLimit ∧ new.pliSupply = old.pliSupply) ∧
           (w ≠ (s.pli i).status → (s.post p).enabled = true →
             new.feedLimit = w.feed.getLsbD l.val ∧ new.pliSupply = w.supply ∧
               (s.inBypass = false → new.feedLimit ≠ old.feedLimit ∨ new.pliSupply ≠ old.pliSupply →
                 t.listedAfresh (.fault p)))) ∧
        (let p := portAt i (slotLine slots[i])
         s.supervision p = .normal → s.lsv.testPort ≠ some p →
            (t.line p).filtered = filterStep s.sect.shiftUsed (s.line p).filtered
              (calibrate (s.entryInUse p) (slotCode slots[i]))) ∧
        ∀ (l : Fin 4) (d : DecNo),
          let p := portAt i l
          s.decoderOf p = some d → s.awaitsDecoder p = false →
            let r := Decoder.take s.sect (slotHook slots[i] l) (s.decoder d)
            (r.2 = .quiet → t.decoder d = r.1) ∧
            (r.2 = .failed → (s.decoder d).failed < 2 →
              t.decoder d = { r.1 with
                state := .hunt, run := 0, index := 0, bits := [], failed := (s.decoder d).failed + 1 }) ∧
            (r.2 = .failed → 2 ≤ (s.decoder d).failed → (s.record p).identity = some .pending →
              t.record p =
                { s.record p with identity := some .malformed, code := none, matched := none }) ∧
            (r.2 = .complete →
              let u := (s.modDecoder d (fun _ => r.1)).judgeBurst d p
              t.record p = u.record p ∧ ((u.decoder d).port = some p → t.decoder d = u.decoder d))) ∧
      ((s.pli i).ready = true → slotReady slots[i] = true → s.bindingsKept → ∀ (l : Fin 4) (c : ChanNo),
        let p := portAt i l
        let v := s.voice c
        (s.record p).channel = some c →
          let x := clampInt (-32767) 32767 (roundAway (slotVoice slots[i] l * (s.post p).gainUp) 64)
          let y := roundAway (x * v.gain) 32
          let z := clampInt (-s.sect.limit) s.sect.limit y
          t.vcn.uplink[p] = z ∧
            t.voice c = { v with
              tally := if z = y then v.tally else satSucc v.tally,
              peak := if s.sect.agcEnable then max v.peak x.natAbs else v.peak,
              block := if s.sect.agcEnable then (if v.block < 64 then v.block + 1 else 64) else v.block }) ∧
      ((s.pli i).ready = true → slotReady slots[i] = false →
        t.pli i = { s.pli i with
          ready := false, readyCount := 0, lossCount := 0, lossReported := false, status := {} } ∧
        ∀ l : Fin 4, (t.line (portAt i l)).settled = .unknown ∧
          (t.line (portAt i l)).causes.pli = true ∧ (t.line (portAt i l)).candidate = none ∧
          (t.line (portAt i l)).debounce = 0 ∧
          (t.line (portAt i l)).filtered = (s.line (portAt i l)).filtered ∧
          ((s.post (portAt i l)).enabled = true → (t.line (portAt i l)).faults =
            { pliAbsent := true, insulationLow := (s.line (portAt i l)).faults.insulationLow } ∧
            (s.inBypass = false → (t.line (portAt i l)).faults ≠ (s.line (portAt i l)).faults →
              t.listedAfresh (.fault (portAt i l)))) ∧
          t.vcn.uplink[portAt i l] = 0 ∧
          ∀ d, (s.decoder d).port = some (portAt i l) → t.decoder d = { s.decoder d with
            state := .hunt, previous := none, run := 0, index := 0, bits := [] }) ∧
      ((s.pli i).ready = false → slotReady slots[i] = true →
        t.pli i = { s.pli i with
          readyCount := if (s.pli i).readyCount < 16 then (s.pli i).readyCount + 1 else 16,
          slot := slots[i] }) ∧
      ((s.pli i).ready = false → slotReady slots[i] = false →
        t.pli i = { s.pli i with readyCount := 0 }))

/-- R149, R151 and R9, with R22 and R153; R150 and R62. -/
def Obligations.PlisReturnAndLossesEndCalls : Prop :=
  ∀ (s : State) (i : PliNo),
    ((s.pli i).ready = false → (s.pli i).readyCount = 16 →
      let x := (s.pli i).slot
      ∃ t, exec (.pliReady i) s = .next t ∧
        t.pli i = { s.pli i with ready := true, readyCount := 0, status := slotStatus x } ∧
        (∀ j, j ≠ i → t.pli j = s.pli j) ∧
        (s.hwc.access = none → t.count .pliStrayReplies =
          if (slotReply x).isSome then satSucc (s.count .pliStrayReplies) else s.count .pliStrayReplies) ∧
        ∀ l : Fin 4,
          let p := portAt i l
          (t.line p).causes.pli = false ∧ (t.line p).settled = (s.line p).settled ∧
          (slotLine x ≠ l → (t.line p).filtered = 0) ∧
          ((s.post p).enabled = true →
            (t.line p).faults.pliAbsent = false ∧
              (t.line p).faults.feedLimit = (slotStatus x).feed.getLsbD l.val ∧
              (t.line p).faults.pliSupply = (slotStatus x).supply ∧
              (s.inBypass = false → s.lsv.testPort ≠ some p → (t.line p).faults ≠ (s.line p).faults →
                t.listedAfresh (.fault p)))) ∧
    (s.isDue (.pliLossTimeout i) = true →
      ∃ t, exec (.pliLossTimeout i) s = .next t ∧ (t.pli i).lossReported = true ∧
        (∀ j, j ≠ i → t.pli j = s.pli j) ∧
        (∀ l : Fin 4, (t.record (portAt i l)).state = .idle ∧ (t.record (portAt i l)).ref =
          if (s.record (portAt i l)).state = .idle then (s.record (portAt i l)).ref else none) ∧
        (∀ p, pliOf p ≠ i → t.record p = s.record p) ∧
        (s.closingKept →
          t.ccl.closing = lastEight (s.ccl.closing ++ s.closings .equipmentFault (portsOf i))) ∧
        ∀ p, (t.line p).settled = (s.line p).settled ∧ (t.line p).filtered = (s.line p).filtered)

/-- R152, R153 and R154, with R148 and R168. The model's own: the timer of an UNSENT access and the data of a read hold 0 (DESIGN CHOICE, log entry 32); a valid reply to an access UNSENT, or sent in this frame time, or answered already, is stray (DEDUCED, log entry 19); of a loss and a valid reply in the same slot the loss is taken first, so the reply is not looked at (DESIGN CHOICE, log entry 43); an answer placed by the access as it is sent, answered, timed out or lost closes the EMPTY message that has begun, and waits for the next (DEDUCED from R168, log entry 10). -/
def Obligations.PliAccessesRunTheirCourse : Prop :=
  ∀ s : State,
    let waits := fun (t : State) =>
      t.mga.writing = s.mga.writing ∧ t.mga.emptyStart = none
    (∀ r : Request, s.inBypass = false →
      ∃ t, exec (.pliAccess r) s = .next t ∧ s.changesOnly t [.hwc, .mga, .counters] ∧
        (r.position = none ∨ 64 ≤ r.index → s.replied t 11 r .badRange [] ∧ t.hwc = s.hwc) ∧
        ∀ i, r.position = some i → r.index < 64 →
          (s.hwc.state ≠ .running → s.replied t 11 r .restarted [] ∧ t.hwc = s.hwc) ∧
          (s.hwc.state = .running → (s.pli i).ready = false →
            s.replied t 11 r .noPli [] ∧ t.hwc = s.hwc) ∧
          (s.hwc.state = .running → (s.pli i).ready = true →
            (r.pliWrite = false ∧ r.index = 0 →
              s.replied t 11 r .ok [0, (s.pli i).status.code] ∧ t.hwc = s.hwc) ∧
            (¬ (r.pliWrite = false ∧ r.index = 0) → s.hwc.access ≠ none →
              s.replied t 11 r .busy [] ∧ t.hwc = s.hwc) ∧
            (¬ (r.pliWrite = false ∧ r.index = 0) → s.hwc.access = none →
              s.counted t [.requestsTaken] ∧ t.mga.buffer = s.mga.buffer ∧
              t.hwc = { s.hwc with
                access := some
                  { position := i, index := r.index, write := r.pliWrite,
                    data := if r.pliWrite then r.word 0 else 0, sent := false, timer := 0, request := r,
                    composed := false, fresh := false, reply := none } }))) ∧
    (∀ (a : Access) (d : Downlink), s.hwc.access = some a → a.sent = false → a.composed = true →
      s.hwc.state = .running → s.hwc.downlink = some d →
      ∃ t, exec .accessSent s = .next t ∧ s.changesOnly t [.hwc, .mga, .counters] ∧
        t.hwc = { s.hwc with
          access := some { a with sent := true, timer := 64, fresh := true },
          downlink := some { d with access := some ⟨a.write, a.position, a.index, a.data⟩ } } ∧
        (a.write = true → s.replied t 11 a.request .ok [] ∧ waits t) ∧ (a.write = false → t.mga = s.mga)) ∧
    (∀ (a : Access) (w : Word), s.hwc.access = some a → a.reply = some w →
      ∃ t, exec .accessReply s = .next t ∧ s.changesOnly t [.hwc, .mga, .counters] ∧
        t.hwc = { s.hwc with access := none } ∧
        (a.write = false → s.replied t 11 a.request .ok [upper w, lower w] ∧ waits t) ∧
        (a.write = true → t.mga = s.mga ∧ s.counted t [])) ∧
    (∀ a : Access, s.hwc.access = some a → a.sent = true → a.fresh = false → a.timer = 0 →
      a.reply = none →
      ∃ t, exec .accessTimeout s = .next t ∧ s.changesOnly t [.hwc, .mga, .counters] ∧
        t.hwc = { s.hwc with access := none } ∧ t.count .pliTimeouts = satSucc (s.count .pliTimeouts) ∧
        (a.write = false → s.replied t 11 a.request .timeout [] ∧ waits t) ∧ (a.write = true → t.mga = s.mga)) ∧
    (∀ slots : Vector PliSlot 8, s.hwc.state = .running →
      let brings := fun (j : PliNo) => if (s.pli j).ready && slotReady slots[j] then slotReply slots[j] else none
      let awaited := fun (a : Access) (j : PliNo) =>
        a.position = j ∧ (brings j).map Prod.fst = some a.index ∧ a.sent = true ∧ a.fresh = false ∧ a.reply = none
      let stray := fun (j : PliNo) => (brings j).isSome && match s.hwc.access with
        | none => true
        | some a => !decide (awaited a j)
      ∃ t, exec (.uplinkFrame slots) s = .next t ∧
        t.count .pliStrayReplies =
          (allPlis.filter stray).foldl (fun n _ => satSucc n) (s.count .pliStrayReplies) ∧
        (s.hwc.access = none → t.hwc.access = none ∧ t.mga = s.mga) ∧
        ∀ a, s.hwc.access = some a →
          let lost := (s.pli a.position).ready = true ∧ slotReady slots[a.position] = false
          (lost → t.hwc.access = none ∧ (a.write = true → a.sent = true → t.mga = s.mga) ∧
            (a.write = false ∨ a.sent = false → s.replied t 11 a.request .noPli [] ∧ waits t)) ∧
          (¬ lost → t.mga = s.mga ∧
            (awaited a a.position →
              t.hwc.access = some { a with reply := (brings a.position).map Prod.snd }) ∧
            (¬ awaited a a.position →
              t.hwc.access = some { a with
                fresh := a.fresh && !a.sent,
                timer := if a.sent = true ∧ a.fresh = false ∧ a.reply = none then a.timer - 1
                  else a.timer })))

/-- R146 and R23, with R38, R62 and R154. That the direction reads 1 for a write is the model's choice (DESIGN CHOICE, log entry 34). That a decoder freed has the phase MAKE, as the value `{}` has it, is the model's choice too (DESIGN CHOICE, log entry 16). -/
def Obligations.HighwayRestartsRunTheirCourse : Prop :=
  ∀ s : State,
    (∀ r : Request, s.inBypass = false →
      ∃ t, exec (.restartHighway r) s = .next t ∧
        t.hwc.state = .restarting ∧ t.hwc.phaseCount = 8 ∧ t.hwc.access = none ∧
        (∀ i, (t.pli i).ready = (s.pli i).ready ∧ ((s.pli i).ready = false → (t.pli i).readyCount = 0) ∧
          (t.pli i).status = (s.pli i).status) ∧
        (∀ p, (t.line p).settled = .unknown ∧ (t.line p).filtered = 0 ∧ (t.line p).brake = false ∧
          (t.line p).candidate = none ∧ (t.line p).debounce = 0 ∧ (t.line p).causes.highway = true ∧
          (t.line p).excHigh = (s.line p).excHigh ∧ (t.line p).excLow = (s.line p).excLow) ∧
        (∀ p, (t.record p).state = .idle ∧ (t.record p).repeatUntil = (s.record p).repeatUntil) ∧
        (s.closingKept →
          t.ccl.closing = lastEight (s.ccl.closing ++ s.closings .equipmentRestart allPorts)) ∧
        (∀ d, t.decoder d = {}) ∧ t.idd.waiting = [] ∧ t.lsv.testPort = none ∧
        (∀ c, (s.chan c).state ≠ .bound → t.chan c = s.chan c) ∧
        t.lsv.schedule = s.lsv.schedule ∧ t.lsv.pointer = s.lsv.pointer ∧
        t.count .highwayRestarts = satSucc (s.count .highwayRestarts) ∧
        s.replied t 12 r .ok
          (match s.hwc.access with
            | none => [0, 0]
            | some a => [if a.write then 0x81 else 0x80, a.request.tag])) ∧
    (s.hwc.state = .restarting → s.hwc.phaseCount = 0 →
      ∃ t, exec .highwayRestartingEnd s = .next t ∧
        t.hwc = { s.hwc with state := .settling, phaseCount := 32 } ∧ s.changesOnly t [.hwc]) ∧
    (s.hwc.state = .settling → s.hwc.phaseCount = 0 →
      ∃ t, exec .highwaySettlingEnd s = .next t ∧ t.hwc = { s.hwc with state := .running } ∧
        (∀ p, (t.line p).causes = { (s.line p).causes with highway := false } ∧
          (t.line p).settled = (s.line p).settled ∧ (t.line p).filtered = (s.line p).filtered) ∧
        s.changesOnly t [.hwc, .lsv])

/-- R173 and the blocks' own rules. That the direction in the reply reads 1 for a write is the model's choice (DESIGN CHOICE, log entry 34). That a decoder freed has the phase MAKE, as the value `{}` has it, is the model's choice too (DESIGN CHOICE, log entry 16). -/
def Obligations.NodeRestartsKeepTheRing : Prop :=
  ∀ (s : State) (r : Request), s.inBypass = false →
    ∃ t, exec (.restartNode r) s = .next t ∧
      (∀ p, (t.record p).state = .idle ∧ (t.record p).repeatUntil = (s.record p).repeatUntil) ∧
      (s.rolesKept → ∀ p, (t.cadence p).role = .none) ∧
      t.ccl.queue = [] ∧ t.ccl.closing = [] ∧ t.ccl.superframes = s.ccl.superframes ∧
      t.ccl.refCounter = s.ccl.refCounter ∧ (∀ c, t.chan c = {}) ∧ t.cha.holdoff = 0 ∧
      (∀ d, t.decoder d = {}) ∧ t.idd.waiting = [] ∧
      (∀ c, t.voice c = s.voice c) ∧ (∀ p : PortNo, t.vcn.uplink[p] = 0) ∧
      t.listedAfresh .node ∧ t.sgu.flags = { s.sgu.flags with restarted := true } ∧
      t.sgu.role = .none ∧ t.sgu.cellsTaken = 0 ∧
      (∀ p, (t.line p).settled = .unknown ∧ (t.line p).filtered = 0) ∧
      (s.drivesKept → ∀ p, (t.line p).reversal = 0 ∧ (t.line p).drive = .normal) ∧
      t.lsv.schedule = 0 ∧ t.lsv.pointer = 31 ∧ t.lsv.testPort = none ∧
      t.hwc.state = .restarting ∧ t.hwc.phaseCount = 8 ∧ t.hwc.access = none ∧
      t.tbs.active = s.tbs.active ∧ t.tbs.shadow = s.tbs.active ∧ t.tbs.switching = false ∧
      t.tbs.index = s.tbs.index ∧ t.mga.writing = none ∧ t.mga.assembly = s.mga.assembly ∧
      s.replied t 13 r .ok
        (match s.hwc.access with
          | none => [0, 0]
          | some a => [if a.write then 0x81 else 0x80, a.request.tag]) ∧
      t.rif = s.rif ∧ t.prc = s.prc ∧ t.straps = s.straps

/-- R172 with R141, R143 and R63; R134 for the reference; R137 for the service input; R6 with R39, R41, R45 and R47 for the events on leaving. That a decoder freed has the phase MAKE, as the value `{}` has it, is the model's choice (DESIGN CHOICE, log entry 16). -/
def Obligations.BypassIsEnteredAndLeft : Prop :=
  ∀ (s : State) (r : Request),
    (s.inBypass = false → (∃ p, (s.record p).state ≠ .idle) → r.force = false →
      ∃ t, exec (.bypass r) s = .next t ∧ s.replied t 14 r .busy [] ∧ s.counted t s.replyCounts ∧
        s.changesOnly t [.mga, .counters]) ∧
    (s.inBypass = false → (∀ p, (s.record p).state = .idle) ∨ r.force = true →
      ∃ t, exec (.bypass r) s = .next t ∧ t.prc.state = .bypass ∧ t.prc.cause = some .request ∧
        t.prc.service = none ∧ t.prc.hold = 0 ∧ t.prc.holdEndDue = false ∧ t.rif.clock.reference = none ∧
        (∀ i, t.health i = s.health i) ∧
        (∀ p, (t.record p).state = .idle ∧ (t.record p).repeatUntil = (s.record p).repeatUntil) ∧
        t.count .forcedEnds =
          (allPorts.filter (fun p => decide ((s.record p).state ≠ .idle))).foldl (fun n _ => satSucc n)
            (s.count .forcedEnds) ∧
        (∀ c, t.chan c = {}) ∧ t.cha.holdoff = 0 ∧ t.ccl.queue = [] ∧ t.ccl.closing = [] ∧
        t.sgu.reports = [] ∧ t.sgu.flags = {} ∧ t.sgu.role = .none ∧ (∀ d, t.decoder d = {}) ∧
        t.idd.waiting = [] ∧ t.lsv.testPort = none ∧ (∀ p : PortNo, t.vcn.uplink[p] = 0) ∧
        (∀ p, (t.line p).settled = (s.line p).settled ∧ (t.line p).filtered = (s.line p).filtered) ∧
        t.mga.writing = none ∧ s.replied t 14 r .ok [] ∧ t.tbs = s.tbs ∧ t.hwc = s.hwc) ∧
    (s.inBypass = true → s.prc.cause = some .request → s.bypassKept →
      ∃ t, exec (.leaveBypass r) s = .next t ∧ t.prc.cause = none ∧
        t.prc.state = protState s.prc.pinHealth.up s.prc.sinHealth.up ∧
        (t.prc.service = none ↔ t.prc.state = .isolated) ∧
        (t.prc.state = .wrapA → t.prc.service = some .sin) ∧
        (t.prc.state = .wrapB → t.prc.service = some .pin) ∧
        (let serves := fun (i : RingInput) => (s.input i).lastClass = .good ∧ (s.input i).lastMarker = some .active
         t.prc.state = .through →
           t.prc.service = some (if serves .pin then .pin else if serves .sin then .sin else .pin)) ∧
        (t.prc.service ≠ none →
          t.prc.hold = if s.sect.switchoverHold = 0 then 1 else s.sect.switchoverHold) ∧
        (t.prc.service = none → t.prc.hold = 0) ∧
        (t.prc.state = .isolated → t.count .isolations = satSucc (s.count .isolations)) ∧
        t.sgu.flags = { bypassLeft := true } ∧ t.listedAfresh .node ∧
        (∀ p, (s.post p).enabled = true → t.listedAfresh (.fault p)) ∧
        s.replied t 15 r .ok [byte t.prc.state.code] ∧
        (let lifted := fun (p : PortNo) => (s.post p).enabled && decide ((s.line p).settled = .offhook)
         let cls := fun (p : PortNo) => if s.windowOpen p then (0 : Fin 4) else (s.post p).baseClass
         (∀ p, lifted p = false → t.record p = s.record p) ∧
         (∀ p, lifted p = true →
           let x := t.record p
           x.state = .waiting ∧ x.channel = none ∧ x.lastChannel = none ∧ x.announced = false ∧
             x.reest = false ∧ x.time = 0 ∧ x.age = 0 ∧ x.createdAt = s.ccl.superframes ∧
             x.latched = some (s.post p).latched ∧ x.baseClass = some (cls p) ∧ x.effClass = some (cls p) ∧
             x.repeated = s.windowOpen p ∧
             x.identity = some (if (s.post p).idFitted then .pending else .notFitted) ∧
             x.ref = some
               ((allPorts.filter (fun q => lifted q && decide (q.val ≤ p.val))).foldl (fun r _ => nextRef r)
                 s.ccl.refCounter) ∧
             (t.cadence p).role = .queue) ∧
         t.ccl.queue.Nodup ∧ (∀ p, p ∈ t.ccl.queue ↔ lifted p = true) ∧
         t.ccl.queue.Pairwise (fun a b => cls a < cls b ∨ (cls a = cls b ∧ a.val < b.val)) ∧
         t.ccl.closing = [] ∧ t.cha = s.cha)) ∧
    (s.inBypass = false → s.prc.cause ≠ some .straps →
      ∃ t, exec (.leaveBypass r) s = .next t ∧ s.replied t 15 r .ok [byte s.prc.state.code] ∧
        s.counted t s.replyCounts ∧ s.changesOnly t [.mga, .counters])

/-- R169, R170 and R11. That the request is counted before its words are read, and before the counters are cleared, is the model's choice (log entries 14 and 22). -/
def Obligations.ReadsAndClearsAnswer : Prop :=
  ∀ (s : State) (r : Request), s.inBypass = false →
    let u := s.bump .requestsTaken
    (∃ t, exec (.readWords r) s = .next t ∧ s.counted t s.replyCounts ∧
      s.changesOnly t [.mga, .counters] ∧
      (r.target = none → s.replied t 2 r .badRequest []) ∧
      ∀ tg, r.target = some tg →
        (1 ≤ r.count ∧ r.count ≤ 12 ∧ r.index + r.count ≤ tg.size →
          s.replied t 2 r .ok (wordsData ((List.range r.count).map (fun j =>
            u.readTarget tg r.activeBank (r.index + j))))) ∧
        (¬ (1 ≤ r.count ∧ r.count ≤ 12 ∧ r.index + r.count ≤ tg.size) →
          s.replied t 2 r .badRange [])) ∧
    (∃ t, exec (.readGroup r) s = .next t ∧ s.counted t s.replyCounts ∧
      s.changesOnly t [.mga, .counters] ∧
      (r.target = none → s.replied t 3 r .badRequest []) ∧
      ∀ tg, r.target = some tg →
        (r.index < tg.size →
          s.replied t 3 r .ok (wordsData ((List.range 8).map (fun j =>
            u.readTarget tg r.activeBank (8 * (r.index / 8) + (r.index + j) % 8))))) ∧
        (tg.size ≤ r.index → s.replied t 3 r .badRange [])) ∧
    (let ok := 1 ≤ r.count ∧ r.count ≤ 12 ∧ r.index + r.count ≤ 56
     ∃ t, exec (.readCounters r) s = .next t ∧ s.changesOnly t [.mga, .counters] ∧
      (ok → s.replied t 7 r .ok (wordsData ((List.range r.count).map (fun j =>
        u.counterWord (r.index + j))))) ∧
      (¬ ok → s.replied t 7 r .badRange []) ∧
      (s.mga.buffer = none → ∀ k : Counter, t.count k =
        if ok ∧ r.clearFlag = true ∧ r.index ≤ k.wordNo.val ∧ k.wordNo.val < r.index + r.count then 0
        else u.count k)) ∧
    (∃ t, exec (.clearCounters r) s = .next t ∧ s.changesOnly t [.mga, .counters] ∧
      s.replied t 8 r .ok [] ∧
      ∀ k : Counter, t.count k = if k = .repliesLost ∧ s.mga.buffer ≠ none then 1 else 0) ∧
    (∃ t, exec (.clearExcursion r) s = .next t ∧ s.counted t s.replyCounts ∧
      s.changesOnly t [.lsv, .mga, .counters] ∧
      (r.port = none → s.replied t 9 r .badRange [] ∧ t.lsv = s.lsv) ∧
      ∀ p, r.port = some p → s.replied t 9 r .ok [] ∧
        t.line p = { s.line p with excHigh := false, excLow := false } ∧
        ∀ q, q ≠ p → t.line q = s.line q)

/-- R156, R158, R161 and R169. -/
def Obligations.WritesReachTheShadowAlone : Prop :=
  ∀ (s : State) (r : Request), s.inBypass = false → s.tablesKept = true →
    (∃ t, exec (.writeWords r) s = .next t ∧ s.counted t s.replyCounts ∧
      s.changesOnly t [.tbs, .mga, .counters] ∧
      (r.target = none → s.replied t 4 r .badRequest [] ∧ t.tbs = s.tbs) ∧
      ∀ tg, r.target = some tg →
        let ok := 1 ≤ r.count ∧ r.count ≤ 12 ∧ r.index + r.count ≤ tg.size
        (¬ ok → s.replied t 4 r .badRange [] ∧ t.tbs = s.tbs) ∧
        (ok → (∀ tb, tg ≠ .table tb) ∨ r.activeBank = true →
          s.replied t 4 r .readOnly [] ∧ t.tbs = s.tbs) ∧
        ∀ tb, tg = .table tb → ok → r.activeBank = false →
          (s.tbs.switching = true → s.replied t 4 r .switchPending [] ∧ t.tbs = s.tbs) ∧
          (s.tbs.switching = false → s.replied t 4 r .ok [] ∧
            t.tbs = { s.tbs with shadow := t.tbs.shadow } ∧
            ∀ k tb', k < tb'.size → t.tbs.shadow.word tb' k =
              if tb' = tb ∧ r.index ≤ k ∧ k < r.index + r.count then
                r.word (k - r.index) &&& fieldMask (tb.base + k)
              else s.tbs.shadow.word tb' k)) ∧
    (∃ t, exec (.discard r) s = .next t ∧ s.counted t s.replyCounts ∧
      s.changesOnly t [.tbs, .mga, .counters] ∧
      (s.tbs.switching = true → s.replied t 6 r .switchPending [] ∧ t.tbs = s.tbs) ∧
      (s.tbs.switching = false → s.replied t 6 r .ok [] ∧
        t.tbs = { s.tbs with shadow := s.tbs.active })) ∧
    (∃ t, exec (.commit r) s = .next t ∧ s.counted t s.replyCounts ∧
      s.changesOnly t [.tbs, .mga, .counters] ∧
      (s.tbs.switching = true → s.replied t 5 r .switchPending [] ∧ t.tbs = s.tbs) ∧
      (s.tbs.switching = false →
        (validate s.tbs.shadow = none → s.replied t 5 r .ok [] ∧
          t.tbs = { s.tbs with switching := true, switchDue := false }) ∧
        ∀ n tb w, validate s.tbs.shadow = some (n, tb, w) →
          s.replied t 5 r .invalid [byte n, byte tb.code, byte (w / 256), byte w] ∧ t.tbs = s.tbs))

/-- R159's eleven checks, and the failure that R158 reports. Which of two pairs of equal codes check 6 reports is the model's reading (DEDUCED, log entry 13). -/
def Obligations.CommitCheckAdmitsSoundTables : Prop :=
  ∀ b : Bank,
    let g := b.sect
    let sets : List (Thresholds → Bool) :=
      [fun x => decide (x.cutMax < x.offhookMin ∧ x.offhookMin < x.shortMin),
       fun x => decide (x.ringtripMin < x.shortMin),
       fun x => decide (x.h + x.cutMax < x.offhookMin),
       fun x => decide (20 < x.debOnhook ∧ g.idStartMax ≤ 16 * (x.debOnhook - 1)),
       fun x => decide (x.debOffhook ≤ 40)]
    let repeats := fun (p q : PortNo) =>
      (b.post p).enabled && (b.post p).idFitted && (b.post q).enabled && (b.post q).idFitted &&
        decide ((b.post p).code = (b.post q).code)
    let selected := [g.selQueue, g.selRingback, g.selHold, g.selClear, g.selRing]
    let empty := fun (n : Nat) => decide ((b.cadence n).steps.head? = some ⟨0, 0⟩)
    let checks : List Bool :=
      sets.map (fun ok => decide (∀ n, ok (b.thresholds n) = true)) ++
      [decide (∀ p q : PortNo, p ≠ q → repeats p q = false), decide (g.quota ≠ 0),
       decide (g.aMin ≤ g.aInit ∧ g.aInit ≤ g.aMax), decide (1 ≤ g.tDis ∧ g.tDis ≤ 25),
       decide (1 ≤ g.tChg ∧ g.tChg ≤ 75), decide (∀ n ∈ selected, empty n = false)]
    (validate b = none ↔ ∀ ok ∈ checks, ok = true) ∧
    ∀ n tb w, validate b = some (n, tb, w) →
      (∀ ok ∈ checks.take (n - 1), ok = true) ∧ checks[n - 1]? = some false ∧
      (n ≤ 5 → tb = .thresholds ∧ ∃ k : Fin 4, w = 8 * k.val + [1, 3, 4, 5, 6].getD (n - 1) 0 ∧
        ∀ ok, sets[n - 1]? = some ok →
          ok (b.thresholds k) = false ∧ ∀ j : Fin 4, j.val < k.val → ok (b.thresholds j) = true) ∧
      (n = 6 → tb = .post ∧ ∃ p : PortNo, w = 16 * p.val + 1 ∧
        (∃ q : PortNo, q.val < p.val ∧ repeats q p = true) ∧
        ∀ p' q : PortNo, q.val < p'.val → p'.val < p.val → repeats q p' = false) ∧
      (6 < n → tb = .sect) ∧ (n = 7 → w = 26) ∧ (n = 8 → w = 28) ∧ (n = 9 ∨ n = 10 → w = 27) ∧
      (n = 11 → w = if selected.take 4 |>.any empty then 30 else 31)

/-- R160 with the blocks' own rules; R104 and R106 for the tones. That the highway frame numbered 0 is composed before BANK_SWITCH, which forms its tones afresh, is the model's order of steps (DESIGN CHOICE, log entry 37). -/
def Obligations.SwitchMakesTheShadowActive : Prop :=
  ∀ s : State, s.tbs.switching = true → s.tbs.switchDue = true → s.callsKept → s.drivesKept →
    let b := s.tbs.shadow
    ∃ t, exec .bankSwitch s = .next t ∧
      t.tbs = { shadow := b, active := b, switching := false, index := identityIndex b,
                switchDue := false } ∧
      (∀ p, (b.post p).enabled = false → (t.record p).state = .idle) ∧
      (∀ p, (b.post p).enabled = true → t.record p = s.record p) ∧
      (s.closingKept →
        t.ccl.closing = lastEight (s.ccl.closing ++
          ({ s with tbs := t.tbs } : State).closings .portDisabled
            (allPorts.filter (fun p => !(b.post p).enabled)))) ∧
      (∀ p, (b.post p).enabled = false → (s.post p).enabled = true →
        (t.line p).settled = .unknown ∧ (t.line p).filtered = 0 ∧ (t.line p).faults = {} ∧
          (t.line p).excHigh = false ∧ (t.line p).excLow = false ∧ (t.line p).brake = false ∧
          (t.line p).reversal = 0 ∧ (t.line p).drive = .normal ∧
          entryOf t.sgu.reports (.fault p) = none) ∧
      (∀ p, (b.post p).enabled = true → (s.post p).enabled = false →
        (t.line p).settled = .unknown ∧ (t.line p).filtered = 0 ∧
          (t.line p).faults.pliAbsent = !(s.pli (pliOf p)).ready) ∧
      (∀ p, (b.post p).enabled = true → (s.post p).enabled = true → t.line p = s.line p) ∧
      (∀ c, t.voice c =
        if s.sect.agcEnable = false ∧ b.sect.agcEnable = true then { s.voice c with peak := 0, block := 0 }
        else s.voice c) ∧
      t.prc = s.prc ∧ t.rif = s.rif ∧ t.mga = s.mga ∧
      (let first := s.rif.clock.number = 0 ∧ s.rif.clock.boundaryDue = false
       t.hwc = { s.hwc with downlink := t.hwc.downlink } ∧ (¬ first → t.hwc.downlink = s.hwc.downlink) ∧
       (s.hwc.downlink = none → t.hwc.downlink = none) ∧
       (∀ d, s.hwc.downlink = some d → d.live = false → t.hwc.downlink = some d) ∧
       (∀ d, s.hwc.downlink = some d → d.live = true → first →
         ∃ e, t.hwc.downlink = some e ∧ e = { d with voice := e.voice } ∧
           ∀ p : PortNo,
             let c := s.tgn.formed[p]
             let tone := b.tone ((c.copy.map CadenceCopy.tone).getD 0)
             e.voice[p] =
               if c.phase = .on ∧ c.role ≠ .none ∧ c.role ≠ .ring then toneSum tone c.acc1 c.acc2
               else d.voice[p]) ∧
       ∀ p, (b.post p).enabled = true →
         let c : Cadence := s.tgn.formed[p]
         let stands := first ∧ s.cadence p = (c.advance s.tbs.active).boundary
         (stands → t.cadence p = (c.advance b).boundary) ∧ (¬ stands → t.cadence p = s.cadence p))

/-- R167, R170 and R144. -/
def Obligations.OtherRequestsAnswerOrAreDropped : Prop :=
  ∀ (s : State) (r : Request),
    (s.prc.cause ≠ some .straps →
      ∃ t, exec (.identify r) s = .next t ∧ s.counted t s.replyCounts ∧
        s.changesOnly t [.mga, .counters] ∧
        s.replied t 1 r .ok
          [s.straps.setWidth 8, byte s.prc.state.code,
           (match s.prc.cause with | none => 0 | some .request => 1 | some .straps => 2),
           (match s.prc.service with | some .pin => 0 | some .sin => 1 | none => 0xFF),
           if s.tbs.switching then 1 else 0,
           (match s.hwc.state with | .running => 0 | .restarting => 1 | .settling => 2)]) ∧
    (∀ kind : Byte, s.inBypass = false →
      ∃ t, exec (.badRequest kind r) s = .next t ∧ s.counted t s.replyCounts ∧
        s.changesOnly t [.mga, .counters] ∧ s.replied t kind r .badRequest []) ∧
    (∀ (c : Instr) (kind : Byte), c.request = some (kind, r) →
      (s.inBypass = true ∧ kind ≠ 1 ∧ kind ≠ 15) ∨
        (s.prc.cause = some .straps ∧ (c = .identify r ∨ c = .leaveBypass r)) →
      exec c s = .next (s.requestActed c))
end

