-- ==== Sys2Proof/Laws/State.lean ====
section
/-! SUPPORT. What each named update of the state leaves as it was, field by field and reading by reading, and
what reading a thing gives after that thing was updated. -/

namespace Sys2Proof.Machine

/-! ### modLine -/

@[simp] theorem State.modLine_straps (s : State) (p : PortNo) (f : PortLine → PortLine) :
    (s.modLine p f).straps = s.straps := rfl
@[simp] theorem State.modLine_idd (s : State) (p : PortNo) (f : PortLine → PortLine) :
    (s.modLine p f).idd = s.idd := rfl
@[simp] theorem State.modLine_ccl (s : State) (p : PortNo) (f : PortLine → PortLine) :
    (s.modLine p f).ccl = s.ccl := rfl
@[simp] theorem State.modLine_cha (s : State) (p : PortNo) (f : PortLine → PortLine) :
    (s.modLine p f).cha = s.cha := rfl
@[simp] theorem State.modLine_sgu (s : State) (p : PortNo) (f : PortLine → PortLine) :
    (s.modLine p f).sgu = s.sgu := rfl
@[simp] theorem State.modLine_tgn (s : State) (p : PortNo) (f : PortLine → PortLine) :
    (s.modLine p f).tgn = s.tgn := rfl
@[simp] theorem State.modLine_vcn (s : State) (p : PortNo) (f : PortLine → PortLine) :
    (s.modLine p f).vcn = s.vcn := rfl
@[simp] theorem State.modLine_rif (s : State) (p : PortNo) (f : PortLine → PortLine) :
    (s.modLine p f).rif = s.rif := rfl
@[simp] theorem State.modLine_prc (s : State) (p : PortNo) (f : PortLine → PortLine) :
    (s.modLine p f).prc = s.prc := rfl
@[simp] theorem State.modLine_hwc (s : State) (p : PortNo) (f : PortLine → PortLine) :
    (s.modLine p f).hwc = s.hwc := rfl
@[simp] theorem State.modLine_tbs (s : State) (p : PortNo) (f : PortLine → PortLine) :
    (s.modLine p f).tbs = s.tbs := rfl
@[simp] theorem State.modLine_mga (s : State) (p : PortNo) (f : PortLine → PortLine) :
    (s.modLine p f).mga = s.mga := rfl
@[simp] theorem State.modLine_counters (s : State) (p : PortNo) (f : PortLine → PortLine) :
    (s.modLine p f).counters = s.counters := rfl
@[simp] theorem State.modLine_pending (s : State) (p : PortNo) (f : PortLine → PortLine) :
    (s.modLine p f).pending = s.pending := rfl
@[simp] theorem State.modLine_record (s : State) (p : PortNo) (f : PortLine → PortLine) (q : PortNo) :
    (s.modLine p f).record q = s.record q := rfl
@[simp] theorem State.modLine_chan (s : State) (p : PortNo) (f : PortLine → PortLine) (ch : ChanNo) :
    (s.modLine p f).chan ch = s.chan ch := rfl
@[simp] theorem State.modLine_voice (s : State) (p : PortNo) (f : PortLine → PortLine) (ch : ChanNo) :
    (s.modLine p f).voice ch = s.voice ch := rfl
@[simp] theorem State.modLine_cadence (s : State) (p : PortNo) (f : PortLine → PortLine) (q : PortNo) :
    (s.modLine p f).cadence q = s.cadence q := rfl
@[simp] theorem State.modLine_decoder (s : State) (p : PortNo) (f : PortLine → PortLine) (e : DecNo) :
    (s.modLine p f).decoder e = s.decoder e := rfl
@[simp] theorem State.modLine_pli (s : State) (p : PortNo) (f : PortLine → PortLine) (j : PliNo) :
    (s.modLine p f).pli j = s.pli j := rfl
@[simp] theorem State.modLine_input (s : State) (p : PortNo) (f : PortLine → PortLine) (j : RingInput) :
    (s.modLine p f).input j = s.input j := rfl
@[simp] theorem State.modLine_health (s : State) (p : PortNo) (f : PortLine → PortLine) (j : RingInput) :
    (s.modLine p f).health j = s.health j := rfl
@[simp] theorem State.modLine_count (s : State) (p : PortNo) (f : PortLine → PortLine) (k' : Counter) :
    (s.modLine p f).count k' = s.count k' := rfl
@[simp] theorem State.modLine_sect (s : State) (p : PortNo) (f : PortLine → PortLine) :
    (s.modLine p f).sect = s.sect := rfl
@[simp] theorem State.modLine_post (s : State) (p : PortNo) (f : PortLine → PortLine) (q : PortNo) :
    (s.modLine p f).post q = s.post q := rfl
@[simp] theorem State.modLine_inBypass (s : State) (p : PortNo) (f : PortLine → PortLine) :
    (s.modLine p f).inBypass = s.inBypass := rfl
@[simp] theorem State.modLine_line_self (s : State) (p : PortNo) (f : PortLine → PortLine) :
    (s.modLine p f).line p = f (s.line p) := by
  simp [State.modLine, State.line, vmod]
theorem State.modLine_line_of_ne (s : State) (p : PortNo) (f : PortLine → PortLine) {q : PortNo} (h : q ≠ p) :
    (s.modLine p f).line q = s.line q := by
  have : p.val ≠ q.val := fun e => h (Fin.ext e.symm)
  simp [State.modLine, State.line, vmod, this]

/-! ### modRecord -/

@[simp] theorem State.modRecord_straps (s : State) (p : PortNo) (f : CallRecord → CallRecord) :
    (s.modRecord p f).straps = s.straps := rfl
@[simp] theorem State.modRecord_lsv (s : State) (p : PortNo) (f : CallRecord → CallRecord) :
    (s.modRecord p f).lsv = s.lsv := rfl
@[simp] theorem State.modRecord_idd (s : State) (p : PortNo) (f : CallRecord → CallRecord) :
    (s.modRecord p f).idd = s.idd := rfl
@[simp] theorem State.modRecord_cha (s : State) (p : PortNo) (f : CallRecord → CallRecord) :
    (s.modRecord p f).cha = s.cha := rfl
@[simp] theorem State.modRecord_sgu (s : State) (p : PortNo) (f : CallRecord → CallRecord) :
    (s.modRecord p f).sgu = s.sgu := rfl
@[simp] theorem State.modRecord_tgn (s : State) (p : PortNo) (f : CallRecord → CallRecord) :
    (s.modRecord p f).tgn = s.tgn := rfl
@[simp] theorem State.modRecord_vcn (s : State) (p : PortNo) (f : CallRecord → CallRecord) :
    (s.modRecord p f).vcn = s.vcn := rfl
@[simp] theorem State.modRecord_rif (s : State) (p : PortNo) (f : CallRecord → CallRecord) :
    (s.modRecord p f).rif = s.rif := rfl
@[simp] theorem State.modRecord_prc (s : State) (p : PortNo) (f : CallRecord → CallRecord) :
    (s.modRecord p f).prc = s.prc := rfl
@[simp] theorem State.modRecord_hwc (s : State) (p : PortNo) (f : CallRecord → CallRecord) :
    (s.modRecord p f).hwc = s.hwc := rfl
@[simp] theorem State.modRecord_tbs (s : State) (p : PortNo) (f : CallRecord → CallRecord) :
    (s.modRecord p f).tbs = s.tbs := rfl
@[simp] theorem State.modRecord_mga (s : State) (p : PortNo) (f : CallRecord → CallRecord) :
    (s.modRecord p f).mga = s.mga := rfl
@[simp] theorem State.modRecord_counters (s : State) (p : PortNo) (f : CallRecord → CallRecord) :
    (s.modRecord p f).counters = s.counters := rfl
@[simp] theorem State.modRecord_pending (s : State) (p : PortNo) (f : CallRecord → CallRecord) :
    (s.modRecord p f).pending = s.pending := rfl
@[simp] theorem State.modRecord_line (s : State) (p : PortNo) (f : CallRecord → CallRecord) (q : PortNo) :
    (s.modRecord p f).line q = s.line q := rfl
@[simp] theorem State.modRecord_chan (s : State) (p : PortNo) (f : CallRecord → CallRecord) (ch : ChanNo) :
    (s.modRecord p f).chan ch = s.chan ch := rfl
@[simp] theorem State.modRecord_voice (s : State) (p : PortNo) (f : CallRecord → CallRecord) (ch : ChanNo) :
    (s.modRecord p f).voice ch = s.voice ch := rfl
@[simp] theorem State.modRecord_cadence (s : State) (p : PortNo) (f : CallRecord → CallRecord) (q : PortNo) :
    (s.modRecord p f).cadence q = s.cadence q := rfl
@[simp] theorem State.modRecord_decoder (s : State) (p : PortNo) (f : CallRecord → CallRecord) (e : DecNo) :
    (s.modRecord p f).decoder e = s.decoder e := rfl
@[simp] theorem State.modRecord_pli (s : State) (p : PortNo) (f : CallRecord → CallRecord) (j : PliNo) :
    (s.modRecord p f).pli j = s.pli j := rfl
@[simp] theorem State.modRecord_input (s : State) (p : PortNo) (f : CallRecord → CallRecord) (j : RingInput) :
    (s.modRecord p f).input j = s.input j := rfl
@[simp] theorem State.modRecord_health (s : State) (p : PortNo) (f : CallRecord → CallRecord) (j : RingInput) :
    (s.modRecord p f).health j = s.health j := rfl
@[simp] theorem State.modRecord_count (s : State) (p : PortNo) (f : CallRecord → CallRecord) (k' : Counter) :
    (s.modRecord p f).count k' = s.count k' := rfl
@[simp] theorem State.modRecord_sect (s : State) (p : PortNo) (f : CallRecord → CallRecord) :
    (s.modRecord p f).sect = s.sect := rfl
@[simp] theorem State.modRecord_post (s : State) (p : PortNo) (f : CallRecord → CallRecord) (q : PortNo) :
    (s.modRecord p f).post q = s.post q := rfl
@[simp] theorem State.modRecord_inBypass (s : State) (p : PortNo) (f : CallRecord → CallRecord) :
    (s.modRecord p f).inBypass = s.inBypass := rfl
@[simp] theorem State.modRecord_record_self (s : State) (p : PortNo) (f : CallRecord → CallRecord) :
    (s.modRecord p f).record p = f (s.record p) := by
  simp [State.modRecord, State.record, vmod]
theorem State.modRecord_record_of_ne (s : State) (p : PortNo) (f : CallRecord → CallRecord) {q : PortNo} (h : q ≠ p) :
    (s.modRecord p f).record q = s.record q := by
  have : p.val ≠ q.val := fun e => h (Fin.ext e.symm)
  simp [State.modRecord, State.record, vmod, this]

/-! ### modChan -/

@[simp] theorem State.modChan_straps (s : State) (c : ChanNo) (f : ChanEntry → ChanEntry) :
    (s.modChan c f).straps = s.straps := rfl
@[simp] theorem State.modChan_lsv (s : State) (c : ChanNo) (f : ChanEntry → ChanEntry) :
    (s.modChan c f).lsv = s.lsv := rfl
@[simp] theorem State.modChan_idd (s : State) (c : ChanNo) (f : ChanEntry → ChanEntry) :
    (s.modChan c f).idd = s.idd := rfl
@[simp] theorem State.modChan_ccl (s : State) (c : ChanNo) (f : ChanEntry → ChanEntry) :
    (s.modChan c f).ccl = s.ccl := rfl
@[simp] theorem State.modChan_sgu (s : State) (c : ChanNo) (f : ChanEntry → ChanEntry) :
    (s.modChan c f).sgu = s.sgu := rfl
@[simp] theorem State.modChan_tgn (s : State) (c : ChanNo) (f : ChanEntry → ChanEntry) :
    (s.modChan c f).tgn = s.tgn := rfl
@[simp] theorem State.modChan_vcn (s : State) (c : ChanNo) (f : ChanEntry → ChanEntry) :
    (s.modChan c f).vcn = s.vcn := rfl
@[simp] theorem State.modChan_rif (s : State) (c : ChanNo) (f : ChanEntry → ChanEntry) :
    (s.modChan c f).rif = s.rif := rfl
@[simp] theorem State.modChan_prc (s : State) (c : ChanNo) (f : ChanEntry → ChanEntry) :
    (s.modChan c f).prc = s.prc := rfl
@[simp] theorem State.modChan_hwc (s : State) (c : ChanNo) (f : ChanEntry → ChanEntry) :
    (s.modChan c f).hwc = s.hwc := rfl
@[simp] theorem State.modChan_tbs (s : State) (c : ChanNo) (f : ChanEntry → ChanEntry) :
    (s.modChan c f).tbs = s.tbs := rfl
@[simp] theorem State.modChan_mga (s : State) (c : ChanNo) (f : ChanEntry → ChanEntry) :
    (s.modChan c f).mga = s.mga := rfl
@[simp] theorem State.modChan_counters (s : State) (c : ChanNo) (f : ChanEntry → ChanEntry) :
    (s.modChan c f).counters = s.counters := rfl
@[simp] theorem State.modChan_pending (s : State) (c : ChanNo) (f : ChanEntry → ChanEntry) :
    (s.modChan c f).pending = s.pending := rfl
@[simp] theorem State.modChan_line (s : State) (c : ChanNo) (f : ChanEntry → ChanEntry) (q : PortNo) :
    (s.modChan c f).line q = s.line q := rfl
@[simp] theorem State.modChan_record (s : State) (c : ChanNo) (f : ChanEntry → ChanEntry) (q : PortNo) :
    (s.modChan c f).record q = s.record q := rfl
@[simp] theorem State.modChan_voice (s : State) (c : ChanNo) (f : ChanEntry → ChanEntry) (ch : ChanNo) :
    (s.modChan c f).voice ch = s.voice ch := rfl
@[simp] theorem State.modChan_cadence (s : State) (c : ChanNo) (f : ChanEntry → ChanEntry) (q : PortNo) :
    (s.modChan c f).cadence q = s.cadence q := rfl
@[simp] theorem State.modChan_decoder (s : State) (c : ChanNo) (f : ChanEntry → ChanEntry) (e : DecNo) :
    (s.modChan c f).decoder e = s.decoder e := rfl
@[simp] theorem State.modChan_pli (s : State) (c : ChanNo) (f : ChanEntry → ChanEntry) (j : PliNo) :
    (s.modChan c f).pli j = s.pli j := rfl
@[simp] theorem State.modChan_input (s : State) (c : ChanNo) (f : ChanEntry → ChanEntry) (j : RingInput) :
    (s.modChan c f).input j = s.input j := rfl
@[simp] theorem State.modChan_health (s : State) (c : ChanNo) (f : ChanEntry → ChanEntry) (j : RingInput) :
    (s.modChan c f).health j = s.health j := rfl
@[simp] theorem State.modChan_count (s : State) (c : ChanNo) (f : ChanEntry → ChanEntry) (k' : Counter) :
    (s.modChan c f).count k' = s.count k' := rfl
@[simp] theorem State.modChan_sect (s : State) (c : ChanNo) (f : ChanEntry → ChanEntry) :
    (s.modChan c f).sect = s.sect := rfl
@[simp] theorem State.modChan_post (s : State) (c : ChanNo) (f : ChanEntry → ChanEntry) (q : PortNo) :
    (s.modChan c f).post q = s.post q := rfl
@[simp] theorem State.modChan_inBypass (s : State) (c : ChanNo) (f : ChanEntry → ChanEntry) :
    (s.modChan c f).inBypass = s.inBypass := rfl
@[simp] theorem State.modChan_chan_self (s : State) (c : ChanNo) (f : ChanEntry → ChanEntry) :
    (s.modChan c f).chan c = f (s.chan c) := by
  simp [State.modChan, State.chan, vmod]
theorem State.modChan_chan_of_ne (s : State) (c : ChanNo) (f : ChanEntry → ChanEntry) {d : ChanNo} (h : d ≠ c) :
    (s.modChan c f).chan d = s.chan d := by
  have : c.val ≠ d.val := fun e => h (Fin.ext e.symm)
  simp [State.modChan, State.chan, vmod, this]

/-! ### modVoice -/

@[simp] theorem State.modVoice_straps (s : State) (c : ChanNo) (f : VoiceChannel → VoiceChannel) :
    (s.modVoice c f).straps = s.straps := rfl
@[simp] theorem State.modVoice_lsv (s : State) (c : ChanNo) (f : VoiceChannel → VoiceChannel) :
    (s.modVoice c f).lsv = s.lsv := rfl
@[simp] theorem State.modVoice_idd (s : State) (c : ChanNo) (f : VoiceChannel → VoiceChannel) :
    (s.modVoice c f).idd = s.idd := rfl
@[simp] theorem State.modVoice_ccl (s : State) (c : ChanNo) (f : VoiceChannel → VoiceChannel) :
    (s.modVoice c f).ccl = s.ccl := rfl
@[simp] theorem State.modVoice_cha (s : State) (c : ChanNo) (f : VoiceChannel → VoiceChannel) :
    (s.modVoice c f).cha = s.cha := rfl
@[simp] theorem State.modVoice_sgu (s : State) (c : ChanNo) (f : VoiceChannel → VoiceChannel) :
    (s.modVoice c f).sgu = s.sgu := rfl
@[simp] theorem State.modVoice_tgn (s : State) (c : ChanNo) (f : VoiceChannel → VoiceChannel) :
    (s.modVoice c f).tgn = s.tgn := rfl
@[simp] theorem State.modVoice_rif (s : State) (c : ChanNo) (f : VoiceChannel → VoiceChannel) :
    (s.modVoice c f).rif = s.rif := rfl
@[simp] theorem State.modVoice_prc (s : State) (c : ChanNo) (f : VoiceChannel → VoiceChannel) :
    (s.modVoice c f).prc = s.prc := rfl
@[simp] theorem State.modVoice_hwc (s : State) (c : ChanNo) (f : VoiceChannel → VoiceChannel) :
    (s.modVoice c f).hwc = s.hwc := rfl
@[simp] theorem State.modVoice_tbs (s : State) (c : ChanNo) (f : VoiceChannel → VoiceChannel) :
    (s.modVoice c f).tbs = s.tbs := rfl
@[simp] theorem State.modVoice_mga (s : State) (c : ChanNo) (f : VoiceChannel → VoiceChannel) :
    (s.modVoice c f).mga = s.mga := rfl
@[simp] theorem State.modVoice_counters (s : State) (c : ChanNo) (f : VoiceChannel → VoiceChannel) :
    (s.modVoice c f).counters = s.counters := rfl
@[simp] theorem State.modVoice_pending (s : State) (c : ChanNo) (f : VoiceChannel → VoiceChannel) :
    (s.modVoice c f).pending = s.pending := rfl
@[simp] theorem State.modVoice_line (s : State) (c : ChanNo) (f : VoiceChannel → VoiceChannel) (q : PortNo) :
    (s.modVoice c f).line q = s.line q := rfl
@[simp] theorem State.modVoice_record (s : State) (c : ChanNo) (f : VoiceChannel → VoiceChannel) (q : PortNo) :
    (s.modVoice c f).record q = s.record q := rfl
@[simp] theorem State.modVoice_chan (s : State) (c : ChanNo) (f : VoiceChannel → VoiceChannel) (ch : ChanNo) :
    (s.modVoice c f).chan ch = s.chan ch := rfl
@[simp] theorem State.modVoice_cadence (s : State) (c : ChanNo) (f : VoiceChannel → VoiceChannel) (q : PortNo) :
    (s.modVoice c f).cadence q = s.cadence q := rfl
@[simp] theorem State.modVoice_decoder (s : State) (c : ChanNo) (f : VoiceChannel → VoiceChannel) (e : DecNo) :
    (s.modVoice c f).decoder e = s.decoder e := rfl
@[simp] theorem State.modVoice_pli (s : State) (c : ChanNo) (f : VoiceChannel → VoiceChannel) (j : PliNo) :
    (s.modVoice c f).pli j = s.pli j := rfl
@[simp] theorem State.modVoice_input (s : State) (c : ChanNo) (f : VoiceChannel → VoiceChannel) (j : RingInput) :
    (s.modVoice c f).input j = s.input j := rfl
@[simp] theorem State.modVoice_health (s : State) (c : ChanNo) (f : VoiceChannel → VoiceChannel) (j : RingInput) :
    (s.modVoice c f).health j = s.health j := rfl
@[simp] theorem State.modVoice_count (s : State) (c : ChanNo) (f : VoiceChannel → VoiceChannel) (k' : Counter) :
    (s.modVoice c f).count k' = s.count k' := rfl
@[simp] theorem State.modVoice_sect (s : State) (c : ChanNo) (f : VoiceChannel → VoiceChannel) :
    (s.modVoice c f).sect = s.sect := rfl
@[simp] theorem State.modVoice_post (s : State) (c : ChanNo) (f : VoiceChannel → VoiceChannel) (q : PortNo) :
    (s.modVoice c f).post q = s.post q := rfl
@[simp] theorem State.modVoice_inBypass (s : State) (c : ChanNo) (f : VoiceChannel → VoiceChannel) :
    (s.modVoice c f).inBypass = s.inBypass := rfl
@[simp] theorem State.modVoice_voice_self (s : State) (c : ChanNo) (f : VoiceChannel → VoiceChannel) :
    (s.modVoice c f).voice c = f (s.voice c) := by
  simp [State.modVoice, State.voice, vmod]
theorem State.modVoice_voice_of_ne (s : State) (c : ChanNo) (f : VoiceChannel → VoiceChannel) {d : ChanNo} (h : d ≠ c) :
    (s.modVoice c f).voice d = s.voice d := by
  have : c.val ≠ d.val := fun e => h (Fin.ext e.symm)
  simp [State.modVoice, State.voice, vmod, this]

/-! ### setUplink -/

@[simp] theorem State.setUplink_straps (s : State) (p : PortNo) (x : Int) :
    (s.setUplink p x).straps = s.straps := rfl
@[simp] theorem State.setUplink_lsv (s : State) (p : PortNo) (x : Int) :
    (s.setUplink p x).lsv = s.lsv := rfl
@[simp] theorem State.setUplink_idd (s : State) (p : PortNo) (x : Int) :
    (s.setUplink p x).idd = s.idd := rfl
@[simp] theorem State.setUplink_ccl (s : State) (p : PortNo) (x : Int) :
    (s.setUplink p x).ccl = s.ccl := rfl
@[simp] theorem State.setUplink_cha (s : State) (p : PortNo) (x : Int) :
    (s.setUplink p x).cha = s.cha := rfl
@[simp] theorem State.setUplink_sgu (s : State) (p : PortNo) (x : Int) :
    (s.setUplink p x).sgu = s.sgu := rfl
@[simp] theorem State.setUplink_tgn (s : State) (p : PortNo) (x : Int) :
    (s.setUplink p x).tgn = s.tgn := rfl
@[simp] theorem State.setUplink_rif (s : State) (p : PortNo) (x : Int) :
    (s.setUplink p x).rif = s.rif := rfl
@[simp] theorem State.setUplink_prc (s : State) (p : PortNo) (x : Int) :
    (s.setUplink p x).prc = s.prc := rfl
@[simp] theorem State.setUplink_hwc (s : State) (p : PortNo) (x : Int) :
    (s.setUplink p x).hwc = s.hwc := rfl
@[simp] theorem State.setUplink_tbs (s : State) (p : PortNo) (x : Int) :
    (s.setUplink p x).tbs = s.tbs := rfl
@[simp] theorem State.setUplink_mga (s : State) (p : PortNo) (x : Int) :
    (s.setUplink p x).mga = s.mga := rfl
@[simp] theorem State.setUplink_counters (s : State) (p : PortNo) (x : Int) :
    (s.setUplink p x).counters = s.counters := rfl
@[simp] theorem State.setUplink_pending (s : State) (p : PortNo) (x : Int) :
    (s.setUplink p x).pending = s.pending := rfl
@[simp] theorem State.setUplink_line (s : State) (p : PortNo) (x : Int) (q : PortNo) :
    (s.setUplink p x).line q = s.line q := rfl
@[simp] theorem State.setUplink_record (s : State) (p : PortNo) (x : Int) (q : PortNo) :
    (s.setUplink p x).record q = s.record q := rfl
@[simp] theorem State.setUplink_chan (s : State) (p : PortNo) (x : Int) (ch : ChanNo) :
    (s.setUplink p x).chan ch = s.chan ch := rfl
@[simp] theorem State.setUplink_cadence (s : State) (p : PortNo) (x : Int) (q : PortNo) :
    (s.setUplink p x).cadence q = s.cadence q := rfl
@[simp] theorem State.setUplink_decoder (s : State) (p : PortNo) (x : Int) (e : DecNo) :
    (s.setUplink p x).decoder e = s.decoder e := rfl
@[simp] theorem State.setUplink_pli (s : State) (p : PortNo) (x : Int) (j : PliNo) :
    (s.setUplink p x).pli j = s.pli j := rfl
@[simp] theorem State.setUplink_input (s : State) (p : PortNo) (x : Int) (j : RingInput) :
    (s.setUplink p x).input j = s.input j := rfl
@[simp] theorem State.setUplink_health (s : State) (p : PortNo) (x : Int) (j : RingInput) :
    (s.setUplink p x).health j = s.health j := rfl
@[simp] theorem State.setUplink_count (s : State) (p : PortNo) (x : Int) (k' : Counter) :
    (s.setUplink p x).count k' = s.count k' := rfl
@[simp] theorem State.setUplink_sect (s : State) (p : PortNo) (x : Int) :
    (s.setUplink p x).sect = s.sect := rfl
@[simp] theorem State.setUplink_post (s : State) (p : PortNo) (x : Int) (q : PortNo) :
    (s.setUplink p x).post q = s.post q := rfl
@[simp] theorem State.setUplink_inBypass (s : State) (p : PortNo) (x : Int) :
    (s.setUplink p x).inBypass = s.inBypass := rfl

/-! ### modCadence -/

@[simp] theorem State.modCadence_straps (s : State) (p : PortNo) (f : Cadence → Cadence) :
    (s.modCadence p f).straps = s.straps := rfl
@[simp] theorem State.modCadence_lsv (s : State) (p : PortNo) (f : Cadence → Cadence) :
    (s.modCadence p f).lsv = s.lsv := rfl
@[simp] theorem State.modCadence_idd (s : State) (p : PortNo) (f : Cadence → Cadence) :
    (s.modCadence p f).idd = s.idd := rfl
@[simp] theorem State.modCadence_ccl (s : State) (p : PortNo) (f : Cadence → Cadence) :
    (s.modCadence p f).ccl = s.ccl := rfl
@[simp] theorem State.modCadence_cha (s : State) (p : PortNo) (f : Cadence → Cadence) :
    (s.modCadence p f).cha = s.cha := rfl
@[simp] theorem State.modCadence_sgu (s : State) (p : PortNo) (f : Cadence → Cadence) :
    (s.modCadence p f).sgu = s.sgu := rfl
@[simp] theorem State.modCadence_vcn (s : State) (p : PortNo) (f : Cadence → Cadence) :
    (s.modCadence p f).vcn = s.vcn := rfl
@[simp] theorem State.modCadence_rif (s : State) (p : PortNo) (f : Cadence → Cadence) :
    (s.modCadence p f).rif = s.rif := rfl
@[simp] theorem State.modCadence_prc (s : State) (p : PortNo) (f : Cadence → Cadence) :
    (s.modCadence p f).prc = s.prc := rfl
@[simp] theorem State.modCadence_hwc (s : State) (p : PortNo) (f : Cadence → Cadence) :
    (s.modCadence p f).hwc = s.hwc := rfl
@[simp] theorem State.modCadence_tbs (s : State) (p : PortNo) (f : Cadence → Cadence) :
    (s.modCadence p f).tbs = s.tbs := rfl
@[simp] theorem State.modCadence_mga (s : State) (p : PortNo) (f : Cadence → Cadence) :
    (s.modCadence p f).mga = s.mga := rfl
@[simp] theorem State.modCadence_counters (s : State) (p : PortNo) (f : Cadence → Cadence) :
    (s.modCadence p f).counters = s.counters := rfl
@[simp] theorem State.modCadence_pending (s : State) (p : PortNo) (f : Cadence → Cadence) :
    (s.modCadence p f).pending = s.pending := rfl
@[simp] theorem State.modCadence_line (s : State) (p : PortNo) (f : Cadence → Cadence) (q : PortNo) :
    (s.modCadence p f).line q = s.line q := rfl
@[simp] theorem State.modCadence_record (s : State) (p : PortNo) (f : Cadence → Cadence) (q : PortNo) :
    (s.modCadence p f).record q = s.record q := rfl
@[simp] theorem State.modCadence_chan (s : State) (p : PortNo) (f : Cadence → Cadence) (ch : ChanNo) :
    (s.modCadence p f).chan ch = s.chan ch := rfl
@[simp] theorem State.modCadence_voice (s : State) (p : PortNo) (f : Cadence → Cadence) (ch : ChanNo) :
    (s.modCadence p f).voice ch = s.voice ch := rfl
@[simp] theorem State.modCadence_decoder (s : State) (p : PortNo) (f : Cadence → Cadence) (e : DecNo) :
    (s.modCadence p f).decoder e = s.decoder e := rfl
@[simp] theorem State.modCadence_pli (s : State) (p : PortNo) (f : Cadence → Cadence) (j : PliNo) :
    (s.modCadence p f).pli j = s.pli j := rfl
@[simp] theorem State.modCadence_input (s : State) (p : PortNo) (f : Cadence → Cadence) (j : RingInput) :
    (s.modCadence p f).input j = s.input j := rfl
@[simp] theorem State.modCadence_health (s : State) (p : PortNo) (f : Cadence → Cadence) (j : RingInput) :
    (s.modCadence p f).health j = s.health j := rfl
@[simp] theorem State.modCadence_count (s : State) (p : PortNo) (f : Cadence → Cadence) (k' : Counter) :
    (s.modCadence p f).count k' = s.count k' := rfl
@[simp] theorem State.modCadence_sect (s : State) (p : PortNo) (f : Cadence → Cadence) :
    (s.modCadence p f).sect = s.sect := rfl
@[simp] theorem State.modCadence_post (s : State) (p : PortNo) (f : Cadence → Cadence) (q : PortNo) :
    (s.modCadence p f).post q = s.post q := rfl
@[simp] theorem State.modCadence_inBypass (s : State) (p : PortNo) (f : Cadence → Cadence) :
    (s.modCadence p f).inBypass = s.inBypass := rfl
@[simp] theorem State.modCadence_cadence_self (s : State) (p : PortNo) (f : Cadence → Cadence) :
    (s.modCadence p f).cadence p = f (s.cadence p) := by
  simp [State.modCadence, State.cadence, vmod]
theorem State.modCadence_cadence_of_ne (s : State) (p : PortNo) (f : Cadence → Cadence) {q : PortNo} (h : q ≠ p) :
    (s.modCadence p f).cadence q = s.cadence q := by
  have : p.val ≠ q.val := fun e => h (Fin.ext e.symm)
  simp [State.modCadence, State.cadence, vmod, this]

/-! ### modDecoder -/

@[simp] theorem State.modDecoder_straps (s : State) (d : DecNo) (f : Decoder → Decoder) :
    (s.modDecoder d f).straps = s.straps := rfl
@[simp] theorem State.modDecoder_lsv (s : State) (d : DecNo) (f : Decoder → Decoder) :
    (s.modDecoder d f).lsv = s.lsv := rfl
@[simp] theorem State.modDecoder_ccl (s : State) (d : DecNo) (f : Decoder → Decoder) :
    (s.modDecoder d f).ccl = s.ccl := rfl
@[simp] theorem State.modDecoder_cha (s : State) (d : DecNo) (f : Decoder → Decoder) :
    (s.modDecoder d f).cha = s.cha := rfl
@[simp] theorem State.modDecoder_sgu (s : State) (d : DecNo) (f : Decoder → Decoder) :
    (s.modDecoder d f).sgu = s.sgu := rfl
@[simp] theorem State.modDecoder_tgn (s : State) (d : DecNo) (f : Decoder → Decoder) :
    (s.modDecoder d f).tgn = s.tgn := rfl
@[simp] theorem State.modDecoder_vcn (s : State) (d : DecNo) (f : Decoder → Decoder) :
    (s.modDecoder d f).vcn = s.vcn := rfl
@[simp] theorem State.modDecoder_rif (s : State) (d : DecNo) (f : Decoder → Decoder) :
    (s.modDecoder d f).rif = s.rif := rfl
@[simp] theorem State.modDecoder_prc (s : State) (d : DecNo) (f : Decoder → Decoder) :
    (s.modDecoder d f).prc = s.prc := rfl
@[simp] theorem State.modDecoder_hwc (s : State) (d : DecNo) (f : Decoder → Decoder) :
    (s.modDecoder d f).hwc = s.hwc := rfl
@[simp] theorem State.modDecoder_tbs (s : State) (d : DecNo) (f : Decoder → Decoder) :
    (s.modDecoder d f).tbs = s.tbs := rfl
@[simp] theorem State.modDecoder_mga (s : State) (d : DecNo) (f : Decoder → Decoder) :
    (s.modDecoder d f).mga = s.mga := rfl
@[simp] theorem State.modDecoder_counters (s : State) (d : DecNo) (f : Decoder → Decoder) :
    (s.modDecoder d f).counters = s.counters := rfl
@[simp] theorem State.modDecoder_pending (s : State) (d : DecNo) (f : Decoder → Decoder) :
    (s.modDecoder d f).pending = s.pending := rfl
@[simp] theorem State.modDecoder_line (s : State) (d : DecNo) (f : Decoder → Decoder) (q : PortNo) :
    (s.modDecoder d f).line q = s.line q := rfl
@[simp] theorem State.modDecoder_record (s : State) (d : DecNo) (f : Decoder → Decoder) (q : PortNo) :
    (s.modDecoder d f).record q = s.record q := rfl
@[simp] theorem State.modDecoder_chan (s : State) (d : DecNo) (f : Decoder → Decoder) (ch : ChanNo) :
    (s.modDecoder d f).chan ch = s.chan ch := rfl
@[simp] theorem State.modDecoder_voice (s : State) (d : DecNo) (f : Decoder → Decoder) (ch : ChanNo) :
    (s.modDecoder d f).voice ch = s.voice ch := rfl
@[simp] theorem State.modDecoder_cadence (s : State) (d : DecNo) (f : Decoder → Decoder) (q : PortNo) :
    (s.modDecoder d f).cadence q = s.cadence q := rfl
@[simp] theorem State.modDecoder_pli (s : State) (d : DecNo) (f : Decoder → Decoder) (j : PliNo) :
    (s.modDecoder d f).pli j = s.pli j := rfl
@[simp] theorem State.modDecoder_input (s : State) (d : DecNo) (f : Decoder → Decoder) (j : RingInput) :
    (s.modDecoder d f).input j = s.input j := rfl
@[simp] theorem State.modDecoder_health (s : State) (d : DecNo) (f : Decoder → Decoder) (j : RingInput) :
    (s.modDecoder d f).health j = s.health j := rfl
@[simp] theorem State.modDecoder_count (s : State) (d : DecNo) (f : Decoder → Decoder) (k' : Counter) :
    (s.modDecoder d f).count k' = s.count k' := rfl
@[simp] theorem State.modDecoder_sect (s : State) (d : DecNo) (f : Decoder → Decoder) :
    (s.modDecoder d f).sect = s.sect := rfl
@[simp] theorem State.modDecoder_post (s : State) (d : DecNo) (f : Decoder → Decoder) (q : PortNo) :
    (s.modDecoder d f).post q = s.post q := rfl
@[simp] theorem State.modDecoder_inBypass (s : State) (d : DecNo) (f : Decoder → Decoder) :
    (s.modDecoder d f).inBypass = s.inBypass := rfl
@[simp] theorem State.modDecoder_decoder_self (s : State) (d : DecNo) (f : Decoder → Decoder) :
    (s.modDecoder d f).decoder d = f (s.decoder d) := by
  simp [State.modDecoder, State.decoder, vmod]
theorem State.modDecoder_decoder_of_ne (s : State) (d : DecNo) (f : Decoder → Decoder) {e : DecNo} (h : e ≠ d) :
    (s.modDecoder d f).decoder e = s.decoder e := by
  have : d.val ≠ e.val := fun e => h (Fin.ext e.symm)
  simp [State.modDecoder, State.decoder, vmod, this]

/-! ### modPli -/

@[simp] theorem State.modPli_straps (s : State) (i : PliNo) (f : Pli → Pli) :
    (s.modPli i f).straps = s.straps := rfl
@[simp] theorem State.modPli_lsv (s : State) (i : PliNo) (f : Pli → Pli) :
    (s.modPli i f).lsv = s.lsv := rfl
@[simp] theorem State.modPli_idd (s : State) (i : PliNo) (f : Pli → Pli) :
    (s.modPli i f).idd = s.idd := rfl
@[simp] theorem State.modPli_ccl (s : State) (i : PliNo) (f : Pli → Pli) :
    (s.modPli i f).ccl = s.ccl := rfl
@[simp] theorem State.modPli_cha (s : State) (i : PliNo) (f : Pli → Pli) :
    (s.modPli i f).cha = s.cha := rfl
@[simp] theorem State.modPli_sgu (s : State) (i : PliNo) (f : Pli → Pli) :
    (s.modPli i f).sgu = s.sgu := rfl
@[simp] theorem State.modPli_tgn (s : State) (i : PliNo) (f : Pli → Pli) :
    (s.modPli i f).tgn = s.tgn := rfl
@[simp] theorem State.modPli_vcn (s : State) (i : PliNo) (f : Pli → Pli) :
    (s.modPli i f).vcn = s.vcn := rfl
@[simp] theorem State.modPli_rif (s : State) (i : PliNo) (f : Pli → Pli) :
    (s.modPli i f).rif = s.rif := rfl
@[simp] theorem State.modPli_prc (s : State) (i : PliNo) (f : Pli → Pli) :
    (s.modPli i f).prc = s.prc := rfl
@[simp] theorem State.modPli_tbs (s : State) (i : PliNo) (f : Pli → Pli) :
    (s.modPli i f).tbs = s.tbs := rfl
@[simp] theorem State.modPli_mga (s : State) (i : PliNo) (f : Pli → Pli) :
    (s.modPli i f).mga = s.mga := rfl
@[simp] theorem State.modPli_counters (s : State) (i : PliNo) (f : Pli → Pli) :
    (s.modPli i f).counters = s.counters := rfl
@[simp] theorem State.modPli_pending (s : State) (i : PliNo) (f : Pli → Pli) :
    (s.modPli i f).pending = s.pending := rfl
@[simp] theorem State.modPli_line (s : State) (i : PliNo) (f : Pli → Pli) (q : PortNo) :
    (s.modPli i f).line q = s.line q := rfl
@[simp] theorem State.modPli_record (s : State) (i : PliNo) (f : Pli → Pli) (q : PortNo) :
    (s.modPli i f).record q = s.record q := rfl
@[simp] theorem State.modPli_chan (s : State) (i : PliNo) (f : Pli → Pli) (ch : ChanNo) :
    (s.modPli i f).chan ch = s.chan ch := rfl
@[simp] theorem State.modPli_voice (s : State) (i : PliNo) (f : Pli → Pli) (ch : ChanNo) :
    (s.modPli i f).voice ch = s.voice ch := rfl
@[simp] theorem State.modPli_cadence (s : State) (i : PliNo) (f : Pli → Pli) (q : PortNo) :
    (s.modPli i f).cadence q = s.cadence q := rfl
@[simp] theorem State.modPli_decoder (s : State) (i : PliNo) (f : Pli → Pli) (e : DecNo) :
    (s.modPli i f).decoder e = s.decoder e := rfl
@[simp] theorem State.modPli_input (s : State) (i : PliNo) (f : Pli → Pli) (j : RingInput) :
    (s.modPli i f).input j = s.input j := rfl
@[simp] theorem State.modPli_health (s : State) (i : PliNo) (f : Pli → Pli) (j : RingInput) :
    (s.modPli i f).health j = s.health j := rfl
@[simp] theorem State.modPli_count (s : State) (i : PliNo) (f : Pli → Pli) (k' : Counter) :
    (s.modPli i f).count k' = s.count k' := rfl
@[simp] theorem State.modPli_sect (s : State) (i : PliNo) (f : Pli → Pli) :
    (s.modPli i f).sect = s.sect := rfl
@[simp] theorem State.modPli_post (s : State) (i : PliNo) (f : Pli → Pli) (q : PortNo) :
    (s.modPli i f).post q = s.post q := rfl
@[simp] theorem State.modPli_inBypass (s : State) (i : PliNo) (f : Pli → Pli) :
    (s.modPli i f).inBypass = s.inBypass := rfl
@[simp] theorem State.modPli_pli_self (s : State) (i : PliNo) (f : Pli → Pli) :
    (s.modPli i f).pli i = f (s.pli i) := by
  simp [State.modPli, State.pli, vmod]
theorem State.modPli_pli_of_ne (s : State) (i : PliNo) (f : Pli → Pli) {j : PliNo} (h : j ≠ i) :
    (s.modPli i f).pli j = s.pli j := by
  have : i.val ≠ j.val := fun e => h (Fin.ext e.symm)
  simp [State.modPli, State.pli, vmod, this]

/-! ### modInput -/

@[simp] theorem State.modInput_straps (s : State) (i : RingInput) (f : InputPort → InputPort) :
    (s.modInput i f).straps = s.straps := by cases i <;> rfl
@[simp] theorem State.modInput_lsv (s : State) (i : RingInput) (f : InputPort → InputPort) :
    (s.modInput i f).lsv = s.lsv := by cases i <;> rfl
@[simp] theorem State.modInput_idd (s : State) (i : RingInput) (f : InputPort → InputPort) :
    (s.modInput i f).idd = s.idd := by cases i <;> rfl
@[simp] theorem State.modInput_ccl (s : State) (i : RingInput) (f : InputPort → InputPort) :
    (s.modInput i f).ccl = s.ccl := by cases i <;> rfl
@[simp] theorem State.modInput_cha (s : State) (i : RingInput) (f : InputPort → InputPort) :
    (s.modInput i f).cha = s.cha := by cases i <;> rfl
@[simp] theorem State.modInput_sgu (s : State) (i : RingInput) (f : InputPort → InputPort) :
    (s.modInput i f).sgu = s.sgu := by cases i <;> rfl
@[simp] theorem State.modInput_tgn (s : State) (i : RingInput) (f : InputPort → InputPort) :
    (s.modInput i f).tgn = s.tgn := by cases i <;> rfl
@[simp] theorem State.modInput_vcn (s : State) (i : RingInput) (f : InputPort → InputPort) :
    (s.modInput i f).vcn = s.vcn := by cases i <;> rfl
@[simp] theorem State.modInput_prc (s : State) (i : RingInput) (f : InputPort → InputPort) :
    (s.modInput i f).prc = s.prc := by cases i <;> rfl
@[simp] theorem State.modInput_hwc (s : State) (i : RingInput) (f : InputPort → InputPort) :
    (s.modInput i f).hwc = s.hwc := by cases i <;> rfl
@[simp] theorem State.modInput_tbs (s : State) (i : RingInput) (f : InputPort → InputPort) :
    (s.modInput i f).tbs = s.tbs := by cases i <;> rfl
@[simp] theorem State.modInput_mga (s : State) (i : RingInput) (f : InputPort → InputPort) :
    (s.modInput i f).mga = s.mga := by cases i <;> rfl
@[simp] theorem State.modInput_counters (s : State) (i : RingInput) (f : InputPort → InputPort) :
    (s.modInput i f).counters = s.counters := by cases i <;> rfl
@[simp] theorem State.modInput_pending (s : State) (i : RingInput) (f : InputPort → InputPort) :
    (s.modInput i f).pending = s.pending := by cases i <;> rfl
@[simp] theorem State.modInput_line (s : State) (i : RingInput) (f : InputPort → InputPort) (q : PortNo) :
    (s.modInput i f).line q = s.line q := by cases i <;> rfl
@[simp] theorem State.modInput_record (s : State) (i : RingInput) (f : InputPort → InputPort) (q : PortNo) :
    (s.modInput i f).record q = s.record q := by cases i <;> rfl
@[simp] theorem State.modInput_chan (s : State) (i : RingInput) (f : InputPort → InputPort) (ch : ChanNo) :
    (s.modInput i f).chan ch = s.chan ch := by cases i <;> rfl
@[simp] theorem State.modInput_voice (s : State) (i : RingInput) (f : InputPort → InputPort) (ch : ChanNo) :
    (s.modInput i f).voice ch = s.voice ch := by cases i <;> rfl
@[simp] theorem State.modInput_cadence (s : State) (i : RingInput) (f : InputPort → InputPort) (q : PortNo) :
    (s.modInput i f).cadence q = s.cadence q := by cases i <;> rfl
@[simp] theorem State.modInput_decoder (s : State) (i : RingInput) (f : InputPort → InputPort) (e : DecNo) :
    (s.modInput i f).decoder e = s.decoder e := by cases i <;> rfl
@[simp] theorem State.modInput_pli (s : State) (i : RingInput) (f : InputPort → InputPort) (j : PliNo) :
    (s.modInput i f).pli j = s.pli j := by cases i <;> rfl
@[simp] theorem State.modInput_health (s : State) (i : RingInput) (f : InputPort → InputPort) (j : RingInput) :
    (s.modInput i f).health j = s.health j := by cases i <;> rfl
@[simp] theorem State.modInput_count (s : State) (i : RingInput) (f : InputPort → InputPort) (k' : Counter) :
    (s.modInput i f).count k' = s.count k' := by cases i <;> rfl
@[simp] theorem State.modInput_sect (s : State) (i : RingInput) (f : InputPort → InputPort) :
    (s.modInput i f).sect = s.sect := by cases i <;> rfl
@[simp] theorem State.modInput_post (s : State) (i : RingInput) (f : InputPort → InputPort) (q : PortNo) :
    (s.modInput i f).post q = s.post q := by cases i <;> rfl
@[simp] theorem State.modInput_inBypass (s : State) (i : RingInput) (f : InputPort → InputPort) :
    (s.modInput i f).inBypass = s.inBypass := by cases i <;> rfl

/-! ### modOuts -/

@[simp] theorem State.modOuts_straps (s : State) (g : OutPort → OutPort) :
    (s.modOuts g).straps = s.straps := rfl
@[simp] theorem State.modOuts_lsv (s : State) (g : OutPort → OutPort) :
    (s.modOuts g).lsv = s.lsv := rfl
@[simp] theorem State.modOuts_idd (s : State) (g : OutPort → OutPort) :
    (s.modOuts g).idd = s.idd := rfl
@[simp] theorem State.modOuts_ccl (s : State) (g : OutPort → OutPort) :
    (s.modOuts g).ccl = s.ccl := rfl
@[simp] theorem State.modOuts_cha (s : State) (g : OutPort → OutPort) :
    (s.modOuts g).cha = s.cha := rfl
@[simp] theorem State.modOuts_sgu (s : State) (g : OutPort → OutPort) :
    (s.modOuts g).sgu = s.sgu := rfl
@[simp] theorem State.modOuts_tgn (s : State) (g : OutPort → OutPort) :
    (s.modOuts g).tgn = s.tgn := rfl
@[simp] theorem State.modOuts_vcn (s : State) (g : OutPort → OutPort) :
    (s.modOuts g).vcn = s.vcn := rfl
@[simp] theorem State.modOuts_prc (s : State) (g : OutPort → OutPort) :
    (s.modOuts g).prc = s.prc := rfl
@[simp] theorem State.modOuts_hwc (s : State) (g : OutPort → OutPort) :
    (s.modOuts g).hwc = s.hwc := rfl
@[simp] theorem State.modOuts_tbs (s : State) (g : OutPort → OutPort) :
    (s.modOuts g).tbs = s.tbs := rfl
@[simp] theorem State.modOuts_mga (s : State) (g : OutPort → OutPort) :
    (s.modOuts g).mga = s.mga := rfl
@[simp] theorem State.modOuts_counters (s : State) (g : OutPort → OutPort) :
    (s.modOuts g).counters = s.counters := rfl
@[simp] theorem State.modOuts_pending (s : State) (g : OutPort → OutPort) :
    (s.modOuts g).pending = s.pending := rfl
@[simp] theorem State.modOuts_line (s : State) (g : OutPort → OutPort) (q : PortNo) :
    (s.modOuts g).line q = s.line q := rfl
@[simp] theorem State.modOuts_record (s : State) (g : OutPort → OutPort) (q : PortNo) :
    (s.modOuts g).record q = s.record q := rfl
@[simp] theorem State.modOuts_chan (s : State) (g : OutPort → OutPort) (ch : ChanNo) :
    (s.modOuts g).chan ch = s.chan ch := rfl
@[simp] theorem State.modOuts_voice (s : State) (g : OutPort → OutPort) (ch : ChanNo) :
    (s.modOuts g).voice ch = s.voice ch := rfl
@[simp] theorem State.modOuts_cadence (s : State) (g : OutPort → OutPort) (q : PortNo) :
    (s.modOuts g).cadence q = s.cadence q := rfl
@[simp] theorem State.modOuts_decoder (s : State) (g : OutPort → OutPort) (e : DecNo) :
    (s.modOuts g).decoder e = s.decoder e := rfl
@[simp] theorem State.modOuts_pli (s : State) (g : OutPort → OutPort) (j : PliNo) :
    (s.modOuts g).pli j = s.pli j := rfl
@[simp] theorem State.modOuts_health (s : State) (g : OutPort → OutPort) (j : RingInput) :
    (s.modOuts g).health j = s.health j := rfl
@[simp] theorem State.modOuts_count (s : State) (g : OutPort → OutPort) (k' : Counter) :
    (s.modOuts g).count k' = s.count k' := rfl
@[simp] theorem State.modOuts_sect (s : State) (g : OutPort → OutPort) :
    (s.modOuts g).sect = s.sect := rfl
@[simp] theorem State.modOuts_post (s : State) (g : OutPort → OutPort) (q : PortNo) :
    (s.modOuts g).post q = s.post q := rfl
@[simp] theorem State.modOuts_inBypass (s : State) (g : OutPort → OutPort) :
    (s.modOuts g).inBypass = s.inBypass := rfl

/-! ### modHealth -/

@[simp] theorem State.modHealth_straps (s : State) (i : RingInput) (f : InputHealth → InputHealth) :
    (s.modHealth i f).straps = s.straps := by cases i <;> rfl
@[simp] theorem State.modHealth_lsv (s : State) (i : RingInput) (f : InputHealth → InputHealth) :
    (s.modHealth i f).lsv = s.lsv := by cases i <;> rfl
@[simp] theorem State.modHealth_idd (s : State) (i : RingInput) (f : InputHealth → InputHealth) :
    (s.modHealth i f).idd = s.idd := by cases i <;> rfl
@[simp] theorem State.modHealth_ccl (s : State) (i : RingInput) (f : InputHealth → InputHealth) :
    (s.modHealth i f).ccl = s.ccl := by cases i <;> rfl
@[simp] theorem State.modHealth_cha (s : State) (i : RingInput) (f : InputHealth → InputHealth) :
    (s.modHealth i f).cha = s.cha := by cases i <;> rfl
@[simp] theorem State.modHealth_sgu (s : State) (i : RingInput) (f : InputHealth → InputHealth) :
    (s.modHealth i f).sgu = s.sgu := by cases i <;> rfl
@[simp] theorem State.modHealth_tgn (s : State) (i : RingInput) (f : InputHealth → InputHealth) :
    (s.modHealth i f).tgn = s.tgn := by cases i <;> rfl
@[simp] theorem State.modHealth_vcn (s : State) (i : RingInput) (f : InputHealth → InputHealth) :
    (s.modHealth i f).vcn = s.vcn := by cases i <;> rfl
@[simp] theorem State.modHealth_rif (s : State) (i : RingInput) (f : InputHealth → InputHealth) :
    (s.modHealth i f).rif = s.rif := by cases i <;> rfl
@[simp] theorem State.modHealth_hwc (s : State) (i : RingInput) (f : InputHealth → InputHealth) :
    (s.modHealth i f).hwc = s.hwc := by cases i <;> rfl
@[simp] theorem State.modHealth_tbs (s : State) (i : RingInput) (f : InputHealth → InputHealth) :
    (s.modHealth i f).tbs = s.tbs := by cases i <;> rfl
@[simp] theorem State.modHealth_mga (s : State) (i : RingInput) (f : InputHealth → InputHealth) :
    (s.modHealth i f).mga = s.mga := by cases i <;> rfl
@[simp] theorem State.modHealth_counters (s : State) (i : RingInput) (f : InputHealth → InputHealth) :
    (s.modHealth i f).counters = s.counters := by cases i <;> rfl
@[simp] theorem State.modHealth_pending (s : State) (i : RingInput) (f : InputHealth → InputHealth) :
    (s.modHealth i f).pending = s.pending := by cases i <;> rfl
@[simp] theorem State.modHealth_line (s : State) (i : RingInput) (f : InputHealth → InputHealth) (q : PortNo) :
    (s.modHealth i f).line q = s.line q := by cases i <;> rfl
@[simp] theorem State.modHealth_record (s : State) (i : RingInput) (f : InputHealth → InputHealth) (q : PortNo) :
    (s.modHealth i f).record q = s.record q := by cases i <;> rfl
@[simp] theorem State.modHealth_chan (s : State) (i : RingInput) (f : InputHealth → InputHealth) (ch : ChanNo) :
    (s.modHealth i f).chan ch = s.chan ch := by cases i <;> rfl
@[simp] theorem State.modHealth_voice (s : State) (i : RingInput) (f : InputHealth → InputHealth) (ch : ChanNo) :
    (s.modHealth i f).voice ch = s.voice ch := by cases i <;> rfl
@[simp] theorem State.modHealth_cadence (s : State) (i : RingInput) (f : InputHealth → InputHealth) (q : PortNo) :
    (s.modHealth i f).cadence q = s.cadence q := by cases i <;> rfl
@[simp] theorem State.modHealth_decoder (s : State) (i : RingInput) (f : InputHealth → InputHealth) (e : DecNo) :
    (s.modHealth i f).decoder e = s.decoder e := by cases i <;> rfl
@[simp] theorem State.modHealth_pli (s : State) (i : RingInput) (f : InputHealth → InputHealth) (j : PliNo) :
    (s.modHealth i f).pli j = s.pli j := by cases i <;> rfl
@[simp] theorem State.modHealth_input (s : State) (i : RingInput) (f : InputHealth → InputHealth) (j : RingInput) :
    (s.modHealth i f).input j = s.input j := by cases i <;> rfl
@[simp] theorem State.modHealth_count (s : State) (i : RingInput) (f : InputHealth → InputHealth) (k' : Counter) :
    (s.modHealth i f).count k' = s.count k' := by cases i <;> rfl
@[simp] theorem State.modHealth_sect (s : State) (i : RingInput) (f : InputHealth → InputHealth) :
    (s.modHealth i f).sect = s.sect := by cases i <;> rfl
@[simp] theorem State.modHealth_post (s : State) (i : RingInput) (f : InputHealth → InputHealth) (q : PortNo) :
    (s.modHealth i f).post q = s.post q := by cases i <;> rfl

/-! ### bump -/

@[simp] theorem State.bump_straps (s : State) (k : Counter) :
    (s.bump k).straps = s.straps := rfl
@[simp] theorem State.bump_lsv (s : State) (k : Counter) :
    (s.bump k).lsv = s.lsv := rfl
@[simp] theorem State.bump_idd (s : State) (k : Counter) :
    (s.bump k).idd = s.idd := rfl
@[simp] theorem State.bump_ccl (s : State) (k : Counter) :
    (s.bump k).ccl = s.ccl := rfl
@[simp] theorem State.bump_cha (s : State) (k : Counter) :
    (s.bump k).cha = s.cha := rfl
@[simp] theorem State.bump_sgu (s : State) (k : Counter) :
    (s.bump k).sgu = s.sgu := rfl
@[simp] theorem State.bump_tgn (s : State) (k : Counter) :
    (s.bump k).tgn = s.tgn := rfl
@[simp] theorem State.bump_vcn (s : State) (k : Counter) :
    (s.bump k).vcn = s.vcn := rfl
@[simp] theorem State.bump_rif (s : State) (k : Counter) :
    (s.bump k).rif = s.rif := rfl
@[simp] theorem State.bump_prc (s : State) (k : Counter) :
    (s.bump k).prc = s.prc := rfl
@[simp] theorem State.bump_hwc (s : State) (k : Counter) :
    (s.bump k).hwc = s.hwc := rfl
@[simp] theorem State.bump_tbs (s : State) (k : Counter) :
    (s.bump k).tbs = s.tbs := rfl
@[simp] theorem State.bump_mga (s : State) (k : Counter) :
    (s.bump k).mga = s.mga := rfl
@[simp] theorem State.bump_pending (s : State) (k : Counter) :
    (s.bump k).pending = s.pending := rfl
@[simp] theorem State.bump_line (s : State) (k : Counter) (q : PortNo) :
    (s.bump k).line q = s.line q := rfl
@[simp] theorem State.bump_record (s : State) (k : Counter) (q : PortNo) :
    (s.bump k).record q = s.record q := rfl
@[simp] theorem State.bump_chan (s : State) (k : Counter) (ch : ChanNo) :
    (s.bump k).chan ch = s.chan ch := rfl
@[simp] theorem State.bump_voice (s : State) (k : Counter) (ch : ChanNo) :
    (s.bump k).voice ch = s.voice ch := rfl
@[simp] theorem State.bump_cadence (s : State) (k : Counter) (q : PortNo) :
    (s.bump k).cadence q = s.cadence q := rfl
@[simp] theorem State.bump_decoder (s : State) (k : Counter) (e : DecNo) :
    (s.bump k).decoder e = s.decoder e := rfl
@[simp] theorem State.bump_pli (s : State) (k : Counter) (j : PliNo) :
    (s.bump k).pli j = s.pli j := rfl
@[simp] theorem State.bump_input (s : State) (k : Counter) (j : RingInput) :
    (s.bump k).input j = s.input j := rfl
@[simp] theorem State.bump_health (s : State) (k : Counter) (j : RingInput) :
    (s.bump k).health j = s.health j := rfl
@[simp] theorem State.bump_sect (s : State) (k : Counter) :
    (s.bump k).sect = s.sect := rfl
@[simp] theorem State.bump_post (s : State) (k : Counter) (q : PortNo) :
    (s.bump k).post q = s.post q := rfl
@[simp] theorem State.bump_inBypass (s : State) (k : Counter) :
    (s.bump k).inBypass = s.inBypass := rfl

/-! ### setRefCounter -/

@[simp] theorem State.setRefCounter_straps (s : State) (r : Nat) :
    (s.setRefCounter r).straps = s.straps := rfl
@[simp] theorem State.setRefCounter_lsv (s : State) (r : Nat) :
    (s.setRefCounter r).lsv = s.lsv := rfl
@[simp] theorem State.setRefCounter_idd (s : State) (r : Nat) :
    (s.setRefCounter r).idd = s.idd := rfl
@[simp] theorem State.setRefCounter_cha (s : State) (r : Nat) :
    (s.setRefCounter r).cha = s.cha := rfl
@[simp] theorem State.setRefCounter_sgu (s : State) (r : Nat) :
    (s.setRefCounter r).sgu = s.sgu := rfl
@[simp] theorem State.setRefCounter_tgn (s : State) (r : Nat) :
    (s.setRefCounter r).tgn = s.tgn := rfl
@[simp] theorem State.setRefCounter_vcn (s : State) (r : Nat) :
    (s.setRefCounter r).vcn = s.vcn := rfl
@[simp] theorem State.setRefCounter_rif (s : State) (r : Nat) :
    (s.setRefCounter r).rif = s.rif := rfl
@[simp] theorem State.setRefCounter_prc (s : State) (r : Nat) :
    (s.setRefCounter r).prc = s.prc := rfl
@[simp] theorem State.setRefCounter_hwc (s : State) (r : Nat) :
    (s.setRefCounter r).hwc = s.hwc := rfl
@[simp] theorem State.setRefCounter_tbs (s : State) (r : Nat) :
    (s.setRefCounter r).tbs = s.tbs := rfl
@[simp] theorem State.setRefCounter_mga (s : State) (r : Nat) :
    (s.setRefCounter r).mga = s.mga := rfl
@[simp] theorem State.setRefCounter_counters (s : State) (r : Nat) :
    (s.setRefCounter r).counters = s.counters := rfl
@[simp] theorem State.setRefCounter_pending (s : State) (r : Nat) :
    (s.setRefCounter r).pending = s.pending := rfl
@[simp] theorem State.setRefCounter_line (s : State) (r : Nat) (q : PortNo) :
    (s.setRefCounter r).line q = s.line q := rfl
@[simp] theorem State.setRefCounter_chan (s : State) (r : Nat) (ch : ChanNo) :
    (s.setRefCounter r).chan ch = s.chan ch := rfl
@[simp] theorem State.setRefCounter_voice (s : State) (r : Nat) (ch : ChanNo) :
    (s.setRefCounter r).voice ch = s.voice ch := rfl
@[simp] theorem State.setRefCounter_cadence (s : State) (r : Nat) (q : PortNo) :
    (s.setRefCounter r).cadence q = s.cadence q := rfl
@[simp] theorem State.setRefCounter_decoder (s : State) (r : Nat) (e : DecNo) :
    (s.setRefCounter r).decoder e = s.decoder e := rfl
@[simp] theorem State.setRefCounter_pli (s : State) (r : Nat) (j : PliNo) :
    (s.setRefCounter r).pli j = s.pli j := rfl
@[simp] theorem State.setRefCounter_input (s : State) (r : Nat) (j : RingInput) :
    (s.setRefCounter r).input j = s.input j := rfl
@[simp] theorem State.setRefCounter_health (s : State) (r : Nat) (j : RingInput) :
    (s.setRefCounter r).health j = s.health j := rfl
@[simp] theorem State.setRefCounter_count (s : State) (r : Nat) (k' : Counter) :
    (s.setRefCounter r).count k' = s.count k' := rfl
@[simp] theorem State.setRefCounter_sect (s : State) (r : Nat) :
    (s.setRefCounter r).sect = s.sect := rfl
@[simp] theorem State.setRefCounter_post (s : State) (r : Nat) (q : PortNo) :
    (s.setRefCounter r).post q = s.post q := rfl
@[simp] theorem State.setRefCounter_inBypass (s : State) (r : Nat) :
    (s.setRefCounter r).inBypass = s.inBypass := rfl

/-! ### leaveQueue -/

@[simp] theorem State.leaveQueue_straps (s : State) (p : PortNo) :
    (s.leaveQueue p).straps = s.straps := rfl
@[simp] theorem State.leaveQueue_lsv (s : State) (p : PortNo) :
    (s.leaveQueue p).lsv = s.lsv := rfl
@[simp] theorem State.leaveQueue_idd (s : State) (p : PortNo) :
    (s.leaveQueue p).idd = s.idd := rfl
@[simp] theorem State.leaveQueue_cha (s : State) (p : PortNo) :
    (s.leaveQueue p).cha = s.cha := rfl
@[simp] theorem State.leaveQueue_sgu (s : State) (p : PortNo) :
    (s.leaveQueue p).sgu = s.sgu := rfl
@[simp] theorem State.leaveQueue_tgn (s : State) (p : PortNo) :
    (s.leaveQueue p).tgn = s.tgn := rfl
@[simp] theorem State.leaveQueue_vcn (s : State) (p : PortNo) :
    (s.leaveQueue p).vcn = s.vcn := rfl
@[simp] theorem State.leaveQueue_rif (s : State) (p : PortNo) :
    (s.leaveQueue p).rif = s.rif := rfl
@[simp] theorem State.leaveQueue_prc (s : State) (p : PortNo) :
    (s.leaveQueue p).prc = s.prc := rfl
@[simp] theorem State.leaveQueue_hwc (s : State) (p : PortNo) :
    (s.leaveQueue p).hwc = s.hwc := rfl
@[simp] theorem State.leaveQueue_tbs (s : State) (p : PortNo) :
    (s.leaveQueue p).tbs = s.tbs := rfl
@[simp] theorem State.leaveQueue_mga (s : State) (p : PortNo) :
    (s.leaveQueue p).mga = s.mga := rfl
@[simp] theorem State.leaveQueue_counters (s : State) (p : PortNo) :
    (s.leaveQueue p).counters = s.counters := rfl
@[simp] theorem State.leaveQueue_pending (s : State) (p : PortNo) :
    (s.leaveQueue p).pending = s.pending := rfl
@[simp] theorem State.leaveQueue_line (s : State) (p : PortNo) (q : PortNo) :
    (s.leaveQueue p).line q = s.line q := rfl
@[simp] theorem State.leaveQueue_chan (s : State) (p : PortNo) (ch : ChanNo) :
    (s.leaveQueue p).chan ch = s.chan ch := rfl
@[simp] theorem State.leaveQueue_voice (s : State) (p : PortNo) (ch : ChanNo) :
    (s.leaveQueue p).voice ch = s.voice ch := rfl
@[simp] theorem State.leaveQueue_cadence (s : State) (p : PortNo) (q : PortNo) :
    (s.leaveQueue p).cadence q = s.cadence q := rfl
@[simp] theorem State.leaveQueue_decoder (s : State) (p : PortNo) (e : DecNo) :
    (s.leaveQueue p).decoder e = s.decoder e := rfl
@[simp] theorem State.leaveQueue_pli (s : State) (p : PortNo) (j : PliNo) :
    (s.leaveQueue p).pli j = s.pli j := rfl
@[simp] theorem State.leaveQueue_input (s : State) (p : PortNo) (j : RingInput) :
    (s.leaveQueue p).input j = s.input j := rfl
@[simp] theorem State.leaveQueue_health (s : State) (p : PortNo) (j : RingInput) :
    (s.leaveQueue p).health j = s.health j := rfl
@[simp] theorem State.leaveQueue_count (s : State) (p : PortNo) (k' : Counter) :
    (s.leaveQueue p).count k' = s.count k' := rfl
@[simp] theorem State.leaveQueue_sect (s : State) (p : PortNo) :
    (s.leaveQueue p).sect = s.sect := rfl
@[simp] theorem State.leaveQueue_post (s : State) (p : PortNo) (q : PortNo) :
    (s.leaveQueue p).post q = s.post q := rfl
@[simp] theorem State.leaveQueue_inBypass (s : State) (p : PortNo) :
    (s.leaveQueue p).inBypass = s.inBypass := rfl

/-! ### placeByClass -/

@[simp] theorem State.placeByClass_straps (s : State) (p : PortNo) :
    (s.placeByClass p).straps = s.straps := rfl
@[simp] theorem State.placeByClass_lsv (s : State) (p : PortNo) :
    (s.placeByClass p).lsv = s.lsv := rfl
@[simp] theorem State.placeByClass_idd (s : State) (p : PortNo) :
    (s.placeByClass p).idd = s.idd := rfl
@[simp] theorem State.placeByClass_cha (s : State) (p : PortNo) :
    (s.placeByClass p).cha = s.cha := rfl
@[simp] theorem State.placeByClass_sgu (s : State) (p : PortNo) :
    (s.placeByClass p).sgu = s.sgu := rfl
@[simp] theorem State.placeByClass_tgn (s : State) (p : PortNo) :
    (s.placeByClass p).tgn = s.tgn := rfl
@[simp] theorem State.placeByClass_vcn (s : State) (p : PortNo) :
    (s.placeByClass p).vcn = s.vcn := rfl
@[simp] theorem State.placeByClass_rif (s : State) (p : PortNo) :
    (s.placeByClass p).rif = s.rif := rfl
@[simp] theorem State.placeByClass_prc (s : State) (p : PortNo) :
    (s.placeByClass p).prc = s.prc := rfl
@[simp] theorem State.placeByClass_hwc (s : State) (p : PortNo) :
    (s.placeByClass p).hwc = s.hwc := rfl
@[simp] theorem State.placeByClass_tbs (s : State) (p : PortNo) :
    (s.placeByClass p).tbs = s.tbs := rfl
@[simp] theorem State.placeByClass_mga (s : State) (p : PortNo) :
    (s.placeByClass p).mga = s.mga := rfl
@[simp] theorem State.placeByClass_counters (s : State) (p : PortNo) :
    (s.placeByClass p).counters = s.counters := rfl
@[simp] theorem State.placeByClass_pending (s : State) (p : PortNo) :
    (s.placeByClass p).pending = s.pending := rfl
@[simp] theorem State.placeByClass_line (s : State) (p : PortNo) (q : PortNo) :
    (s.placeByClass p).line q = s.line q := rfl
@[simp] theorem State.placeByClass_chan (s : State) (p : PortNo) (ch : ChanNo) :
    (s.placeByClass p).chan ch = s.chan ch := rfl
@[simp] theorem State.placeByClass_voice (s : State) (p : PortNo) (ch : ChanNo) :
    (s.placeByClass p).voice ch = s.voice ch := rfl
@[simp] theorem State.placeByClass_cadence (s : State) (p : PortNo) (q : PortNo) :
    (s.placeByClass p).cadence q = s.cadence q := rfl
@[simp] theorem State.placeByClass_decoder (s : State) (p : PortNo) (e : DecNo) :
    (s.placeByClass p).decoder e = s.decoder e := rfl
@[simp] theorem State.placeByClass_pli (s : State) (p : PortNo) (j : PliNo) :
    (s.placeByClass p).pli j = s.pli j := rfl
@[simp] theorem State.placeByClass_input (s : State) (p : PortNo) (j : RingInput) :
    (s.placeByClass p).input j = s.input j := rfl
@[simp] theorem State.placeByClass_health (s : State) (p : PortNo) (j : RingInput) :
    (s.placeByClass p).health j = s.health j := rfl
@[simp] theorem State.placeByClass_count (s : State) (p : PortNo) (k' : Counter) :
    (s.placeByClass p).count k' = s.count k' := rfl
@[simp] theorem State.placeByClass_sect (s : State) (p : PortNo) :
    (s.placeByClass p).sect = s.sect := rfl
@[simp] theorem State.placeByClass_post (s : State) (p : PortNo) (q : PortNo) :
    (s.placeByClass p).post q = s.post q := rfl
@[simp] theorem State.placeByClass_inBypass (s : State) (p : PortNo) :
    (s.placeByClass p).inBypass = s.inBypass := rfl

/-! ### unlistEntry -/

@[simp] theorem State.unlistEntry_straps (s : State) (k : EntryKey) :
    (s.unlistEntry k).straps = s.straps := rfl
@[simp] theorem State.unlistEntry_lsv (s : State) (k : EntryKey) :
    (s.unlistEntry k).lsv = s.lsv := rfl
@[simp] theorem State.unlistEntry_idd (s : State) (k : EntryKey) :
    (s.unlistEntry k).idd = s.idd := rfl
@[simp] theorem State.unlistEntry_ccl (s : State) (k : EntryKey) :
    (s.unlistEntry k).ccl = s.ccl := rfl
@[simp] theorem State.unlistEntry_cha (s : State) (k : EntryKey) :
    (s.unlistEntry k).cha = s.cha := rfl
@[simp] theorem State.unlistEntry_tgn (s : State) (k : EntryKey) :
    (s.unlistEntry k).tgn = s.tgn := rfl
@[simp] theorem State.unlistEntry_vcn (s : State) (k : EntryKey) :
    (s.unlistEntry k).vcn = s.vcn := rfl
@[simp] theorem State.unlistEntry_rif (s : State) (k : EntryKey) :
    (s.unlistEntry k).rif = s.rif := rfl
@[simp] theorem State.unlistEntry_prc (s : State) (k : EntryKey) :
    (s.unlistEntry k).prc = s.prc := rfl
@[simp] theorem State.unlistEntry_hwc (s : State) (k : EntryKey) :
    (s.unlistEntry k).hwc = s.hwc := rfl
@[simp] theorem State.unlistEntry_tbs (s : State) (k : EntryKey) :
    (s.unlistEntry k).tbs = s.tbs := rfl
@[simp] theorem State.unlistEntry_mga (s : State) (k : EntryKey) :
    (s.unlistEntry k).mga = s.mga := rfl
@[simp] theorem State.unlistEntry_counters (s : State) (k : EntryKey) :
    (s.unlistEntry k).counters = s.counters := rfl
@[simp] theorem State.unlistEntry_pending (s : State) (k : EntryKey) :
    (s.unlistEntry k).pending = s.pending := rfl
@[simp] theorem State.unlistEntry_line (s : State) (k : EntryKey) (q : PortNo) :
    (s.unlistEntry k).line q = s.line q := rfl
@[simp] theorem State.unlistEntry_record (s : State) (k : EntryKey) (q : PortNo) :
    (s.unlistEntry k).record q = s.record q := rfl
@[simp] theorem State.unlistEntry_chan (s : State) (k : EntryKey) (ch : ChanNo) :
    (s.unlistEntry k).chan ch = s.chan ch := rfl
@[simp] theorem State.unlistEntry_voice (s : State) (k : EntryKey) (ch : ChanNo) :
    (s.unlistEntry k).voice ch = s.voice ch := rfl
@[simp] theorem State.unlistEntry_cadence (s : State) (k : EntryKey) (q : PortNo) :
    (s.unlistEntry k).cadence q = s.cadence q := rfl
@[simp] theorem State.unlistEntry_decoder (s : State) (k : EntryKey) (e : DecNo) :
    (s.unlistEntry k).decoder e = s.decoder e := rfl
@[simp] theorem State.unlistEntry_pli (s : State) (k : EntryKey) (j : PliNo) :
    (s.unlistEntry k).pli j = s.pli j := rfl
@[simp] theorem State.unlistEntry_input (s : State) (k : EntryKey) (j : RingInput) :
    (s.unlistEntry k).input j = s.input j := rfl
@[simp] theorem State.unlistEntry_health (s : State) (k : EntryKey) (j : RingInput) :
    (s.unlistEntry k).health j = s.health j := rfl
@[simp] theorem State.unlistEntry_count (s : State) (k : EntryKey) (k' : Counter) :
    (s.unlistEntry k).count k' = s.count k' := rfl
@[simp] theorem State.unlistEntry_sect (s : State) (k : EntryKey) :
    (s.unlistEntry k).sect = s.sect := rfl
@[simp] theorem State.unlistEntry_post (s : State) (k : EntryKey) (q : PortNo) :
    (s.unlistEntry k).post q = s.post q := rfl
@[simp] theorem State.unlistEntry_inBypass (s : State) (k : EntryKey) :
    (s.unlistEntry k).inBypass = s.inBypass := rfl

/-! ### Things that a port, channel or input holds beside the one updated -/

@[simp] theorem State.setUplink_voice (s : State) (p : PortNo) (x : Int) (d : ChanNo) :
    (s.setUplink p x).voice d = s.voice d := rfl
@[simp] theorem State.modVoice_uplink (s : State) (c : ChanNo) (f : VoiceChannel → VoiceChannel) :
    (s.modVoice c f).vcn.uplink = s.vcn.uplink := rfl
@[simp] theorem State.setRefCounter_record (s : State) (r : Nat) (q : PortNo) :
    (s.setRefCounter r).record q = s.record q := rfl
@[simp] theorem State.leaveQueue_record (s : State) (p q : PortNo) :
    (s.leaveQueue p).record q = s.record q := rfl
@[simp] theorem State.placeByClass_record (s : State) (p q : PortNo) :
    (s.placeByClass p).record q = s.record q := rfl
@[simp] theorem State.modInput_input_self (s : State) (i : RingInput) (f : InputPort → InputPort) :
    (s.modInput i f).input i = f (s.input i) := by cases i <;> rfl
@[simp] theorem State.modOuts_input (s : State) (g : OutPort → OutPort) (j : RingInput) :
    (s.modOuts g).input j = s.input j := by cases j <;> rfl
@[simp] theorem State.modOuts_out (s : State) (g : OutPort → OutPort) (o : RingOutput) :
    (s.modOuts g).out o = g (s.out o) := by cases o <;> rfl
@[simp] theorem State.modHealth_health_self (s : State) (i : RingInput) (f : InputHealth → InputHealth) :
    (s.modHealth i f).health i = f (s.health i) := by cases i <;> rfl
theorem State.modInput_input_of_ne (s : State) (i : RingInput) (f : InputPort → InputPort) {j : RingInput}
    (h : j ≠ i) : (s.modInput i f).input j = s.input j := by cases i <;> cases j <;> first | rfl | exact absurd rfl h
theorem State.modHealth_health_of_ne (s : State) (i : RingInput) (f : InputHealth → InputHealth)
    {j : RingInput} (h : j ≠ i) : (s.modHealth i f).health j = s.health j := by
  cases i <;> cases j <;> first | rfl | exact absurd rfl h

/-- Two counters stand in one word only if they are the same counter. -/
theorem Counter.wordNo_inj {j k : Counter} (h : j.wordNo = k.wordNo) : j = k := by
  revert h; cases j <;> cases k <;> decide

@[simp] theorem State.bump_count_self (s : State) (k : Counter) :
    (s.bump k).count k = satSucc (s.count k) := by
  simp [State.bump, State.count, vmod]
theorem State.bump_count_of_ne (s : State) {j k : Counter} (h : j ≠ k) :
    (s.bump k).count j = s.count j := by
  have : k.wordNo.val ≠ j.wordNo.val := fun e => h (Counter.wordNo_inj (Fin.ext e).symm)
  simp [State.bump, State.count, vmod, this]

end Sys2Proof.Machine
end

