-- ==== Sys2Proof/Laws/Ops.lean ====
section
/-! SUPPORT. What each shared operation can change: one lemma per operation names the parts of the state outside
which nothing moves, and the rest say what the smallest ones do. -/

namespace Sys2Proof.Machine

/-! ### The vocabulary of change -/

theorem changesOnly_refl (s : State) (l : List Block) : s.changesOnly s l := by
  intro b _; cases b <;> simp [State.sameIn]

theorem changesOnly_trans {s t u : State} {l : List Block} (h : s.changesOnly t l) (g : t.changesOnly u l) :
    s.changesOnly u l := by
  intro b hb
  have h := h b hb
  have g := g b hb
  cases b <;> simp_all [State.sameIn]

theorem changesOnly_mono {s t : State} {l m : List Block} (h : s.changesOnly t l) (hlm : ∀ b ∈ l, b ∈ m) :
    s.changesOnly t m := fun b hb => h b (fun hl => hb (hlm b hl))

/-- A choice between two changes. -/
theorem changesOnly_ite {s t u : State} {l : List Block} {c : Prop} [Decidable c] (h : s.changesOnly t l)
    (g : s.changesOnly u l) : s.changesOnly (if c then t else u) l := by
  split <;> assumption

/-- What a part that a change leaves alone reads. -/
theorem changesOnly_lsv {s t : State} {l : List Block} (h : s.changesOnly t l) (hb : Block.lsv ∉ l) :
    t.lsv = s.lsv := by simpa [State.sameIn] using h _ hb
theorem changesOnly_idd {s t : State} {l : List Block} (h : s.changesOnly t l) (hb : Block.idd ∉ l) :
    t.idd = s.idd := by simpa [State.sameIn] using h _ hb
theorem changesOnly_ccl {s t : State} {l : List Block} (h : s.changesOnly t l) (hb : Block.ccl ∉ l) :
    t.ccl = s.ccl := by simpa [State.sameIn] using h _ hb
theorem changesOnly_cha {s t : State} {l : List Block} (h : s.changesOnly t l) (hb : Block.cha ∉ l) :
    t.cha = s.cha := by simpa [State.sameIn] using h _ hb
theorem changesOnly_sgu {s t : State} {l : List Block} (h : s.changesOnly t l) (hb : Block.sgu ∉ l) :
    t.sgu = s.sgu := by simpa [State.sameIn] using h _ hb
theorem changesOnly_tgn {s t : State} {l : List Block} (h : s.changesOnly t l) (hb : Block.tgn ∉ l) :
    t.tgn = s.tgn := by simpa [State.sameIn] using h _ hb
theorem changesOnly_vcn {s t : State} {l : List Block} (h : s.changesOnly t l) (hb : Block.vcn ∉ l) :
    t.vcn = s.vcn := by simpa [State.sameIn] using h _ hb
theorem changesOnly_rif {s t : State} {l : List Block} (h : s.changesOnly t l) (hb : Block.rif ∉ l) :
    t.rif = s.rif := by simpa [State.sameIn] using h _ hb
theorem changesOnly_prc {s t : State} {l : List Block} (h : s.changesOnly t l) (hb : Block.prc ∉ l) :
    t.prc = s.prc := by simpa [State.sameIn] using h _ hb
theorem changesOnly_hwc {s t : State} {l : List Block} (h : s.changesOnly t l) (hb : Block.hwc ∉ l) :
    t.hwc = s.hwc := by simpa [State.sameIn] using h _ hb
theorem changesOnly_tbs {s t : State} {l : List Block} (h : s.changesOnly t l) (hb : Block.tbs ∉ l) :
    t.tbs = s.tbs := by simpa [State.sameIn] using h _ hb
theorem changesOnly_mga {s t : State} {l : List Block} (h : s.changesOnly t l) (hb : Block.mga ∉ l) :
    t.mga = s.mga := by simpa [State.sameIn] using h _ hb
theorem changesOnly_counters {s t : State} {l : List Block} (h : s.changesOnly t l) (hb : Block.counters ∉ l) :
    t.counters = s.counters := by simpa [State.sameIn] using h _ hb
theorem changesOnly_straps {s t : State} {l : List Block} (h : s.changesOnly t l) (hb : Block.straps ∉ l) :
    t.straps = s.straps := by simpa [State.sameIn] using h _ hb
theorem changesOnly_pending {s t : State} {l : List Block} (h : s.changesOnly t l) (hb : Block.pending ∉ l) :
    t.pending = s.pending := by simpa [State.sameIn] using h _ hb

/-! ### Smallest updates -/

theorem modLine_keeps (s : State) (p : PortNo) (f : PortLine → PortLine) :
    s.changesOnly (s.modLine p f) [.lsv] := by
  intro b hb; cases b <;> simp_all [State.sameIn]
theorem modRecord_keeps (s : State) (p : PortNo) (f : CallRecord → CallRecord) :
    s.changesOnly (s.modRecord p f) [.ccl] := by
  intro b hb; cases b <;> simp_all [State.sameIn]
theorem modChan_keeps (s : State) (c : ChanNo) (f : ChanEntry → ChanEntry) :
    s.changesOnly (s.modChan c f) [.cha] := by
  intro b hb; cases b <;> simp_all [State.sameIn]
theorem modVoice_keeps (s : State) (c : ChanNo) (f : VoiceChannel → VoiceChannel) :
    s.changesOnly (s.modVoice c f) [.vcn] := by
  intro b hb; cases b <;> simp_all [State.sameIn]
theorem setUplink_keeps (s : State) (p : PortNo) (x : Int) : s.changesOnly (s.setUplink p x) [.vcn] := by
  intro b hb; cases b <;> simp_all [State.sameIn]
theorem modCadence_keeps (s : State) (p : PortNo) (f : Cadence → Cadence) :
    s.changesOnly (s.modCadence p f) [.tgn] := by
  intro b hb; cases b <;> simp_all [State.sameIn]
theorem modDecoder_keeps (s : State) (d : DecNo) (f : Decoder → Decoder) :
    s.changesOnly (s.modDecoder d f) [.idd] := by
  intro b hb; cases b <;> simp_all [State.sameIn]
theorem modPli_keeps (s : State) (i : PliNo) (f : Pli → Pli) : s.changesOnly (s.modPli i f) [.hwc] := by
  intro b hb; cases b <;> simp_all [State.sameIn]
theorem modInput_keeps (s : State) (i : RingInput) (f : InputPort → InputPort) :
    s.changesOnly (s.modInput i f) [.rif] := by
  intro b hb; cases b <;> simp_all [State.sameIn]
theorem modHealth_keeps (s : State) (i : RingInput) (f : InputHealth → InputHealth) :
    s.changesOnly (s.modHealth i f) [.prc] := by
  intro b hb; cases b <;> simp_all [State.sameIn]
theorem bump_keeps (s : State) (k : Counter) : s.changesOnly (s.bump k) [.counters] := by
  intro b hb; cases b <;> simp_all [State.sameIn]
theorem setRefCounter_keeps (s : State) (r : Nat) : s.changesOnly (s.setRefCounter r) [.ccl] := by
  intro b hb; cases b <;> simp_all [State.sameIn]
theorem leaveQueue_keeps (s : State) (p : PortNo) : s.changesOnly (s.leaveQueue p) [.ccl] := by
  intro b hb; cases b <;> simp_all [State.sameIn]
theorem placeByClass_keeps (s : State) (p : PortNo) : s.changesOnly (s.placeByClass p) [.ccl] := by
  intro b hb; cases b <;> simp_all [State.sameIn]
theorem unlistEntry_keeps (s : State) (k : EntryKey) : s.changesOnly (s.unlistEntry k) [.sgu] := by
  intro b hb; cases b <;> simp_all [State.sameIn]

/-- Counting one event: its counter rises, stopping at 65535, and no other moves. -/
theorem bump_counted (s : State) (k : Counter) : s.counted (s.bump k) [k] := by
  intro j
  by_cases h : j = k
  · subst h; simp
  · simp [State.bump_count_of_ne s h, h]

/-! ### The report list (R86 to R88, R97, R98) -/

theorem listEntry_keeps (s : State) (k : EntryKey) : s.changesOnly (s.listEntry k) [.sgu] := by
  unfold State.listEntry
  intro b hb
  split <;> cases b <;> simp_all [State.sameIn]

theorem setNodeFlag_keeps (s : State) (isSet : NodeFlags → Bool) (set : NodeFlags → NodeFlags) :
    s.changesOnly (s.setNodeFlag isSet set) [.sgu] := by
  unfold State.setNodeFlag
  refine changesOnly_ite (changesOnly_refl s _) (changesOnly_trans ?_ (listEntry_keeps _ _))
  intro b hb
  cases b <;> simp_all [State.sameIn]

/-- In BYPASS a listing is not taken (R98). -/
theorem listEntry_bypass (s : State) (k : EntryKey) (h : s.inBypass = true) : s.listEntry k = s := by
  simp [State.listEntry, h]

/-- An entry that was dropped stands in the list no more (R88). -/
theorem entryOf_dropEntry (l : List ReportEntry) (k : EntryKey) : entryOf (dropEntry l k) k = none := by
  simp [entryOf, dropEntry]

/-- Dropping an entry leaves every other as it was (R88). -/
theorem entryOf_dropEntry_of_ne (l : List ReportEntry) {j k : EntryKey} (h : j ≠ k) :
    entryOf (dropEntry l k) j = entryOf l j := by
  induction l with
  | nil => rfl
  | cons e l ih =>
    simp only [entryOf, dropEntry] at *
    by_cases hk : e.key = k
    · have : e.key ≠ j := fun hj => h (hj ▸ hk)
      simp [hk, ih, show ¬ k = j from fun e => h e.symm]
    · by_cases hj : e.key = j
      · simp [hj, h]
      · simp [hk, hj, ih]

/-- An entry placed at the tail of its tier is the one its key finds, if no other has that key (R86). -/
theorem entryOf_placeTail (l : List ReportEntry) (e : ReportEntry) (h : entryOf l e.key = none) :
    entryOf (placeTail l e) e.key = some e := by
  simp only [entryOf, List.find?_eq_none, decide_eq_true_eq] at h
  have hn : ∀ m : List ReportEntry, m.Sublist l → m.find? (fun x => decide (x.key = e.key)) = none :=
    fun m hm => List.find?_eq_none.mpr (fun x hx => by simpa using h x (hm.subset hx))
  unfold placeTail
  split
  · simp [entryOf, List.find?_append, hn _ (List.takeWhile_sublist _)]
  · simp [entryOf, List.find?_append, hn l (List.Sublist.refl l)]

/-- Placing an entry leaves what every other key finds (R86). -/
theorem entryOf_placeTail_of_ne (l : List ReportEntry) (e : ReportEntry) {j : EntryKey} (h : e.key ≠ j) :
    entryOf (placeTail l e) j = entryOf l j := by
  unfold placeTail entryOf
  split
  · have hl := List.takeWhile_append_dropWhile (p := fun x : ReportEntry => isFirstTier x.key) (l := l)
    simp only [List.find?_append, List.find?_cons, h, decide_false]
    rw [← List.find?_append, hl]
  · simp [List.find?_append, h]

/-- A listing leaves its entry LISTED with no sent echo (R87). -/
theorem entryOf_listIn (l : List ReportEntry) (k : EntryKey) :
    ∃ e, entryOf (listIn l k) k = some e ∧ e.status = .listed ∧ e.echo = none := by
  unfold listIn
  split
  · next h => exact ⟨_, entryOf_placeTail l { key := k } h, rfl, rfl⟩
  · next e h =>
    split
    · next hs =>
      refine ⟨{ e with echo := none }, ?_, hs, rfl⟩
      have hk : e.key = k := by simpa using List.find?_some h
      have hf : (fun x : ReportEntry => decide (x.key = k)) ∘
          (fun x : ReportEntry => if x.key = k then { x with echo := none } else x) = fun x => decide (x.key = k) := by
        funext x; by_cases hx : x.key = k <;> simp [hx]
      simp only [entryOf] at h ⊢
      rw [List.find?_map, hf, h]
      simp [hk]
    · exact ⟨_, entryOf_placeTail _ { key := k } (entryOf_dropEntry l k), rfl, rfl⟩

/-- A listing leaves every other entry as it was (R87). -/
theorem entryOf_listIn_of_ne (l : List ReportEntry) {j k : EntryKey} (h : j ≠ k) :
    entryOf (listIn l k) j = entryOf l j := by
  have hk : ({ key := k } : ReportEntry).key ≠ j := fun e => h e.symm
  have hmap : entryOf (l.map (fun x => if x.key = k then { x with echo := none } else x)) j = entryOf l j := by
    simp only [entryOf]
    induction l with
    | nil => rfl
    | cons x l ih =>
      by_cases hx : x.key = k
      · simpa [hx, show ¬ k = j from fun e => h e.symm] using ih
      · by_cases hj : x.key = j
        · simp [hj, h]
        · simpa [hx, hj] using ih
  unfold listIn
  split
  · exact entryOf_placeTail_of_ne l _ hk
  · split
    · exact hmap
    · rw [entryOf_placeTail_of_ne _ _ hk, entryOf_dropEntry_of_ne l h]

/-- What a request to list an entry can do (R87, R98). -/
theorem listEntry_listsOnly (s : State) (k : EntryKey) : s.listsOnly (s.listEntry k) k := by
  refine ⟨fun h => ?_, fun h => by rw [listEntry_bypass s k h]⟩
  simp only [State.listEntry, h, Bool.false_eq_true, if_false, State.listedAfresh]
  exact ⟨entryOf_listIn _ k, fun j hj => entryOf_listIn_of_ne _ hj, by trivial⟩

/-! ### Lines (R7, R8, R13, R21, R22) -/

theorem modFaults_keeps (s : State) (p : PortNo) (f : FaultSet → FaultSet) :
    s.changesOnly (s.modFaults p f) [.lsv, .sgu] := by
  unfold State.modFaults
  refine changesOnly_ite (changesOnly_ite (changesOnly_refl s _) ?_) (changesOnly_refl s _)
  exact changesOnly_trans (changesOnly_mono (modLine_keeps s p _) (by simp))
    (changesOnly_mono (listEntry_keeps _ _) (by simp))

/-- A disabled port's fault set is left as it is (R22). -/
theorem modFaults_disabled (s : State) (p : PortNo) (f : FaultSet → FaultSet) (h : (s.post p).enabled = false) :
    s.modFaults p f = s := by
  simp [State.modFaults, h]

theorem redrive_keeps (s : State) (p : PortNo) : s.changesOnly (s.redrive p) [.lsv] := modLine_keeps s p _

/-- A line driven again has the drive mode R13 gives it. -/
theorem redrive_drive (s : State) (p : PortNo) : ((s.redrive p).line p).drive = s.driveFor p := by
  simp only [State.redrive, State.modLine_line_self, PortLine.takeDrive]
  split <;> rfl

/-- Driving a line again leaves every other line as it was. -/
theorem redrive_of_ne (s : State) {p q : PortNo} (h : q ≠ p) : (s.redrive p).line q = s.line q :=
  State.modLine_line_of_ne s p _ h

theorem endTest_keeps (s : State) (o : TestOutcome) : s.changesOnly (s.endTest o) [.lsv, .counters] := by
  unfold State.endTest
  split
  · exact changesOnly_refl s _
  · refine changesOnly_trans (t := { s with lsv := _ }) ?_
      (changesOnly_trans (changesOnly_mono (modLine_keeps _ _ _) (by simp))
        (changesOnly_trans (changesOnly_mono (bump_keeps _ _) (by simp))
          (changesOnly_mono (redrive_keeps _ _) (by simp))))
    intro b hb
    cases b <;> simp_all [State.sameIn]

/-- An ended test leaves no port under test (R20, R21). -/
theorem endTest_testPort (s : State) (o : TestOutcome) : (s.endTest o).lsv.testPort = none := by
  unfold State.endTest
  split
  · assumption
  · rfl

theorem abortTestOn_keeps (s : State) (p : PortNo) : s.changesOnly (s.abortTestOn p) [.lsv, .counters] :=
  changesOnly_ite (endTest_keeps s _) (changesOnly_refl s _)

/-! ### Channels (R74) -/

theorem releaseRequest_keeps (s : State) (p : PortNo) (c : ChanNo) :
    s.changesOnly (s.releaseRequest p c) [.cha] :=
  changesOnly_ite (modChan_keeps s c _) (changesOnly_refl s _)

theorem attach_keeps (s : State) (c : ChanNo) (p : PortNo) : s.changesOnly (s.attach c p) [.cha, .vcn] :=
  changesOnly_trans (changesOnly_mono (modChan_keeps s c _) (by simp))
    (changesOnly_mono (modVoice_keeps _ c _) (by simp))

/-! ### Decoders (R25 to R28, R36) -/

theorem handOn_keeps (s : State) (d : DecNo) : s.changesOnly (s.handOn d) [.idd] := by
  unfold State.handOn
  split
  · exact modDecoder_keeps s d _
  · refine changesOnly_trans (t := { s with idd := _ }) ?_ (modDecoder_keeps _ d _)
    intro b hb
    cases b <;> simp_all [State.sameIn]

theorem leaveDecoderWait_keeps (s : State) (p : PortNo) : s.changesOnly (s.leaveDecoderWait p) [.idd] := by
  intro b hb
  cases b <;> simp_all [State.sameIn, State.leaveDecoderWait]

theorem releaseIdentity_keeps (s : State) (p : PortNo) : s.changesOnly (s.releaseIdentity p) [.idd] := by
  unfold State.releaseIdentity
  simp only []
  split
  · exact changesOnly_trans (leaveDecoderWait_keeps s p) (handOn_keeps _ _)
  · exact leaveDecoderWait_keeps s p

theorem requestIdentity_keeps (s : State) (p : PortNo) (fitted : Bool) :
    s.changesOnly (s.requestIdentity p fitted).2 [.idd, .counters] := by
  unfold State.requestIdentity
  split
  · split
    · exact changesOnly_refl s _
    · split
      · exact changesOnly_mono (modDecoder_keeps s _ _) (by simp)
      · intro b hb
        cases b <;> simp_all [State.sameIn]
  · exact changesOnly_mono (bump_keeps s _) (by simp)

/-- What a request to identify answers: PENDING for a post with identity fitted, NOT-FITTED for another (R25). -/
theorem requestIdentity_outcome (s : State) (p : PortNo) (fitted : Bool) :
    (s.requestIdentity p fitted).1 = if fitted then .pending else .notFitted := by
  unfold State.requestIdentity
  split
  · split
    · simp_all
    · split <;> simp_all
  · simp_all

/-! ### Records (R40, R42, R43) -/

theorem followRole_keeps (s : State) (p : PortNo) : s.changesOnly (s.followRole p) [.tgn] := by
  unfold State.followRole
  exact changesOnly_ite (changesOnly_refl s _) (modCadence_keeps s p _)

theorem stateChanged_keeps (s : State) (p : PortNo) (old : CallState) :
    s.changesOnly (s.stateChanged p old) [.lsv, .tgn, .idd] := by
  unfold State.stateChanged
  simp only []
  generalize ht : (if old = .ringing then s.modLine p (fun l => { l with brake := false }) else s) = t
  have h0 : s.changesOnly t [.lsv, .tgn, .idd] := by
    rw [← ht]
    exact changesOnly_ite (changesOnly_mono (modLine_keeps s p _) (by simp)) (changesOnly_refl s _)
  have h1 : s.changesOnly ((t.followRole p).redrive p) [.lsv, .tgn, .idd] :=
    changesOnly_trans h0 (changesOnly_trans (changesOnly_mono (followRole_keeps t p) (by simp))
      (changesOnly_mono (redrive_keeps _ p) (by simp)))
  exact changesOnly_ite (changesOnly_trans h1 (changesOnly_mono (releaseIdentity_keeps _ p) (by simp))) h1

theorem reportChange_keeps (s : State) (p : PortNo) (old : CallRecord) :
    s.changesOnly (s.reportChange p old) [.sgu] := by
  unfold State.reportChange
  exact changesOnly_ite (unlistEntry_keeps s _)
    (changesOnly_ite (listEntry_keeps s _) (changesOnly_refl s _))

/-- Giving a record new contents moves no other part than these. -/
theorem setRecord_keeps (s : State) (p : PortNo) (new : CallRecord) :
    s.changesOnly (s.setRecord p new) [.lsv, .idd, .ccl, .sgu, .tgn, .vcn] := by
  unfold State.setRecord
  simp only []
  split
  · exact changesOnly_trans (changesOnly_mono (modRecord_keeps s p _) (by simp))
      (changesOnly_mono (reportChange_keeps _ p _) (by simp))
  · refine changesOnly_trans (changesOnly_mono (modRecord_keeps s p (fun _ => { new with time := 0 })) (by simp)) ?_
    generalize s.modRecord p (fun _ => { new with time := 0 }) = u
    generalize hv : (if ((s.record p).channel.isSome && new.channel.isNone) = true then u.setUplink p 0 else u) = v
    have h : u.changesOnly v [.lsv, .idd, .ccl, .sgu, .tgn, .vcn] := by
      rw [← hv]
      exact changesOnly_ite (changesOnly_mono (setUplink_keeps u p 0) (by simp)) (changesOnly_refl u _)
    exact changesOnly_trans h (changesOnly_trans (changesOnly_mono (stateChanged_keeps v p _) (by simp))
      (changesOnly_mono (reportChange_keeps _ p _) (by simp)))

/-- The records after one was given new contents: the new ones, with time in state 0 where the state changed
(R40), and every other as it was. -/
theorem setRecord_record (s : State) (p q : PortNo) (new : CallRecord) :
    (s.setRecord p new).record q =
      if q = p then (if new.state = (s.record p).state then new else { new with time := 0 })
      else s.record q := by
  have hr : ∀ (t : State) (old : CallRecord), (t.reportChange p old).record q = t.record q := fun t old => by
    simp only [State.record, changesOnly_ccl (reportChange_keeps t p old) (by simp)]
  have hs : ∀ (t : State) (old : CallState), (t.stateChanged p old).record q = t.record q := fun t old => by
    simp only [State.record, changesOnly_ccl (stateChanged_keeps t p old) (by simp)]
  have hc : ∀ (t : State) (c : Prop) [Decidable c], (if c then t.setUplink p 0 else t).record q = t.record q := by
    intro t c _; split <;> rfl
  unfold State.setRecord
  simp only []
  by_cases hst : new.state = (s.record p).state
  · rw [if_pos hst, if_pos hst, hr]
    by_cases h : q = p
    · subst h; simp
    · rw [if_neg h]; exact State.modRecord_record_of_ne s p _ h
  · rw [if_neg hst, if_neg hst, hr, hs, hc]
    by_cases h : q = p
    · subst h; simp
    · rw [if_neg h]; exact State.modRecord_record_of_ne s p _ h

theorem dropOldestClose_keeps (s : State) : s.changesOnly s.dropOldestClose [.ccl, .sgu, .counters] := by
  unfold State.dropOldestClose
  split
  · exact changesOnly_refl s _
  · refine changesOnly_trans (t := { s with ccl := _ }) ?_
      (changesOnly_trans (changesOnly_mono (unlistEntry_keeps _ _) (by simp))
        (changesOnly_mono (bump_keeps _ _) (by simp)))
    intro b hb
    cases b <;> simp_all [State.sameIn]

theorem addClose_keeps (s : State) (ref : Option Nat) (p : PortNo) (reason : CloseReason)
    (channel : Option ChanNo) (duration : Nat) :
    s.changesOnly (s.addClose ref p reason channel duration) [.ccl, .sgu, .counters] := by
  unfold State.addClose
  simp only []
  refine changesOnly_trans (t := if Config.closingCapacity ≤ s.ccl.closing.length then s.dropOldestClose else s)
    (changesOnly_ite (dropOldestClose_keeps s) (changesOnly_refl s _))
    (changesOnly_trans ?_ (changesOnly_mono (listEntry_keeps _ _) (by simp)))
  intro b hb
  cases b <;> simp_all [State.sameIn]

theorem idleRecord_keeps (s : State) (p : PortNo) :
    s.changesOnly (s.idleRecord p) [.lsv, .idd, .ccl, .sgu, .tgn, .vcn] := setRecord_keeps s p _

theorem closeEntry_keeps (s : State) (p : PortNo) (reason : CloseReason) :
    s.changesOnly (s.closeEntry p reason) [.ccl, .cha, .sgu, .counters] := by
  unfold State.closeEntry
  simp only []
  refine changesOnly_trans (changesOnly_mono (addClose_keeps s (s.record p).ref p reason
    (s.record p).lastChannel (s.duration (s.record p))) (by simp)) ?_
  refine changesOnly_trans ?_ (changesOnly_mono (leaveQueue_keeps _ p) (by simp))
  split
  · exact changesOnly_mono (releaseRequest_keeps _ p _) (by simp)
  · exact changesOnly_refl _ _

/-- Closing a call moves no other part than these (R43). -/
theorem closeCall_keeps (s : State) (p : PortNo) (reason : CloseReason) :
    s.changesOnly (s.closeCall p reason) [.lsv, .idd, .ccl, .cha, .sgu, .tgn, .vcn, .counters] :=
  changesOnly_trans (changesOnly_mono (closeEntry_keeps s p reason) (by simp))
    (changesOnly_mono (idleRecord_keeps _ p) (by simp))

theorem endCall_keeps (s : State) (reason : CloseReason) (p : PortNo) :
    s.changesOnly (s.endCall reason p) [.lsv, .idd, .ccl, .cha, .sgu, .tgn, .vcn, .counters] := by
  unfold State.endCall
  split
  · exact changesOnly_refl s _
  · exact changesOnly_mono (idleRecord_keeps s p) (by simp)
  · exact closeCall_keeps s p reason

theorem offer_keeps (s : State) (c : ChanNo) (p : PortNo) :
    s.changesOnly (s.offer c p) [.lsv, .idd, .ccl, .sgu, .tgn, .vcn] :=
  changesOnly_trans (changesOnly_mono (leaveQueue_keeps s p) (by simp)) (setRecord_keeps _ p _)

theorem attachLoop_keeps (k : Nat) (s : State) :
    s.changesOnly (State.attachLoop k s) [.lsv, .idd, .ccl, .cha, .sgu, .tgn, .vcn] := by
  induction k generalizing s with
  | zero => exact changesOnly_refl s _
  | succ k ih =>
    unfold State.attachLoop
    split
    · exact changesOnly_trans (changesOnly_mono (attach_keeps s _ _) (by simp))
        (changesOnly_trans (changesOnly_mono (offer_keeps _ _ _) (by simp)) (ih _))
    · exact changesOnly_refl s _

theorem attachWaiting_keeps (s : State) :
    s.changesOnly s.attachWaiting [.lsv, .idd, .ccl, .cha, .sgu, .tgn, .vcn] := attachLoop_keeps 20 s

/-! ### Requests (R167, R168) -/

theorem placeReply_keeps (s : State) (m : Message) : s.changesOnly (s.placeReply m) [.mga, .counters] := by
  unfold State.placeReply
  intro b hb
  simp only []
  split <;> cases b <;> simp_all [State.sameIn]

theorem answer_keeps (s : State) (kind : Byte) (r : Request) (res : Result) (data : List Byte) :
    s.changesOnly (s.answer kind r res data) [.mga, .counters] := placeReply_keeps s _

/-- The buffer holds the reply placed (R168). -/
theorem answer_buffer (s : State) (kind : Byte) (r : Request) (res : Result) (data : List Byte) :
    (s.answer kind r res data).mga.buffer = some (s.reply kind r res data) := rfl

/-- Placing a reply counts a lost one where the buffer held another, and nothing else (R168). -/
theorem answer_counted (s : State) (kind : Byte) (r : Request) (res : Result) (data : List Byte) :
    s.counted (s.answer kind r res data) (if s.mga.buffer.isSome then [.repliesLost] else []) := by
  unfold State.answer State.placeReply
  simp only []
  split
  · exact bump_counted s _
  · intro k; simp [State.count]

theorem requestActed_keeps (s : State) (c : Instr) : s.changesOnly (s.requestActed c) [.mga] := by
  unfold State.requestActed
  refine changesOnly_ite ?_ (changesOnly_refl s _)
  intro b hb
  cases b <;> simp_all [State.sameIn]

theorem commandActed_keeps (s : State) (c : Instr) : s.changesOnly (s.commandActed c) [.sgu] := by
  unfold State.commandActed
  refine changesOnly_ite ?_ (changesOnly_refl s _)
  intro b hb
  cases b <;> simp_all [State.sameIn]

/-! ### Outputs (R124 to R127) -/

theorem modOuts_keeps (s : State) (g : OutPort → OutPort) : s.changesOnly (s.modOuts g) [.rif] := by
  intro b hb; cases b <;> simp_all [State.sameIn]

theorem putOut_keeps (s : State) (o : RingOutput) (src : Option RingInput) (f : Frame) :
    s.changesOnly (s.putOut o src f) [.rif] := by
  intro b hb; cases o <;> cases b <;> simp_all [State.sameIn, State.putOut]

/-- The output that begins a frame sends it for one frame time; the other goes on (R126). -/
theorem putOut_out (s : State) (o q : RingOutput) (src : Option RingInput) (f : Frame) :
    (s.putOut o src f).out q = if q = o then { frame := some f, source := src, left := 736 } else s.out q := by
  cases o <;> cases q <;> rfl

theorem sendFill_keeps (s : State) (o : RingOutput) (n sf : Nat) :
    s.changesOnly (s.sendFill o n sf) [.rif, .counters] :=
  changesOnly_trans (changesOnly_mono (putOut_keeps s o none _) (by simp)) (changesOnly_mono (bump_keeps _ _) (by simp))

theorem rewrite_keeps (s : State) (i : RingInput) (g : Frame → Frame) : s.changesOnly (s.rewrite i g) [.rif] :=
  changesOnly_trans (modInput_keeps s i _) (modOuts_keeps _ _)

theorem elapse_keeps (s : State) (n : Nat) : s.changesOnly (s.elapse n) [.rif] := by
  intro b hb; cases b <;> simp_all [State.sameIn, State.elapse, State.modOuts]

theorem judgeInput_keeps (s : State) (i : RingInput) : s.changesOnly (s.judgeInput i) [.prc] := by
  intro b hb; cases b <;> cases i <;> simp_all [State.sameIn, State.judgeInput, State.modHealth]

theorem realign_keeps (s : State) (timing : Nat) : s.changesOnly (s.realign timing) [.rif, .hwc, .counters] := by
  unfold State.realign
  refine changesOnly_ite (changesOnly_refl s _) ?_
  intro b hb; cases b <;> simp_all [State.sameIn, State.bump]

theorem refEnds_keeps (s : State) (i : RingInput) : s.changesOnly (s.refEnds i) [.rif, .hwc, .counters] := by
  refine changesOnly_trans (realign_keeps s (s.input i).timing) ?_
  intro b hb; cases b <;> simp_all [State.sameIn, State.refEnds]

theorem forward_keeps (s : State) (i : RingInput) (o : RingOutput) :
    s.changesOnly (s.forward i o) [.rif, .counters] := by
  unfold State.forward
  refine changesOnly_ite ?_ (changesOnly_refl s _)
  split
  · exact sendFill_keeps s o _ _
  · exact changesOnly_mono (putOut_keeps s o _ _) (by simp)
  · exact changesOnly_refl s _

theorem nodeSlot_keeps (s : State) (o : RingOutput) : s.changesOnly (s.nodeSlot o) [.rif, .counters] := by
  unfold State.nodeSlot
  split
  · exact changesOnly_refl s _
  · exact changesOnly_ite (sendFill_keeps s o _ _) (changesOnly_refl s _)
  · refine changesOnly_ite ?_ (changesOnly_refl s _)
    split
    · exact sendFill_keeps s o _ _
    · exact changesOnly_mono (putOut_keeps s o _ _) (by simp)
    · exact changesOnly_mono (putOut_keeps s o _ _) (by simp)
    · exact changesOnly_refl s _

/-! ### One step for each port or channel -/

/-- What every step of a sweep over ports keeps, the sweep keeps. -/
theorem forPorts_keeps (l : List PortNo) (f : PortNo → State → State) (m : List Block)
    (h : ∀ p (s : State), s.changesOnly (f p s) m) (s : State) : s.changesOnly (forPorts l f s) m := by
  induction l generalizing s with
  | nil => exact changesOnly_refl s _
  | cons p l ih => exact changesOnly_trans (h p s) (ih (f p s))

/-- What every step of a sweep over channels keeps, the sweep keeps. -/
theorem forChans_keeps (l : List ChanNo) (f : ChanNo → State → State) (m : List Block)
    (h : ∀ c (s : State), s.changesOnly (f c s) m) (s : State) : s.changesOnly (forChans l f s) m := by
  induction l generalizing s with
  | nil => exact changesOnly_refl s _
  | cons c l ih => exact changesOnly_trans (h c s) (ih (f c s))

/-- A property every step of a sweep keeps holds after the sweep. -/
theorem forPorts_induct (P : State → Prop) (l : List PortNo) (f : PortNo → State → State)
    (h : ∀ p s, P s → P (f p s)) (s : State) (hs : P s) : P (forPorts l f s) := by
  induction l generalizing s with
  | nil => exact hs
  | cons p l ih => exact ih (f p s) (h p s hs)

/-- A property every step of a sweep keeps holds after the sweep. -/
theorem forChans_induct (P : State → Prop) (l : List ChanNo) (f : ChanNo → State → State)
    (h : ∀ c s, P s → P (f c s)) (s : State) (hs : P s) : P (forChans l f s) := by
  induction l generalizing s with
  | nil => exact hs
  | cons c l ih => exact ih (f c s) (h c s hs)

/-! ### The node frame time (R128, R130) -/

theorem endCell_keeps (s : State) : s.changesOnly s.endCell [.sgu, .counters] := by
  intro b hb
  unfold State.endCell
  simp only []
  split
  · split
    · cases b <;> simp_all [State.sameIn]
    · split <;> cases b <;> simp_all [State.sameIn]
  · split <;> cases b <;> simp_all [State.sameIn]
  · cases b <;> simp_all [State.sameIn]
  · cases b <;> simp_all [State.sameIn]

theorem partMissed_keeps (s : State) : s.changesOnly s.partMissed [.sgu, .counters] := by
  unfold State.partMissed State.partGone
  refine changesOnly_ite (changesOnly_trans (t := { s with sgu := _ }) ?_
    (changesOnly_ite (endCell_keeps _) (changesOnly_refl _ _))) (changesOnly_refl s _)
  intro b hb; cases b <;> simp_all [State.sameIn]

theorem cutReply_keeps (s : State) : s.changesOnly s.cutReply [.mga, .counters] := by
  unfold State.cutReply
  intro b hb
  split <;> cases b <;> simp_all [State.sameIn]

/-- A cell in progress cut off ends spoiled, counted by its role (R82, R84, R90); nothing else of SGU moves but its
role, command bytes, report and spoiled mark. -/
theorem cutCell_cut (s : State) :
    s.cellCut s.cutCell ∧ s.cutCell.sgu.dueCommand = s.sgu.dueCommand ∧ s.cutCell.sgu.reports = s.sgu.reports ∧
      s.cutCell.sgu.flags = s.sgu.flags ∧ s.cutCell.sgu.cellsTaken = s.sgu.cellsTaken ∧
      s.counted s.cutCell
        (match s.sgu.role with
          | .consume => [.badCommands]
          | .report => if s.sgu.report = none then [] else [.reportsSpoiled]
          | .none => []
          | .pass => []) := by
  unfold State.cellCut State.cutCell State.inCell State.endCell
  cases hr : s.sgu.role with
  | none => simp [State.counted, hr]
  | pass => simp [State.counted, hr]
  | consume =>
    simp only [hr]
    have hc := bump_counted s .badCommands
    refine ⟨⟨by simp, ?_, ?_⟩, by simp, by simp, by simp, by simp, hc⟩
    · exact hc .badCommands
    · exact hc .reportsSpoiled
  | report =>
    have hc := bump_counted s .reportsSpoiled
    cases h : s.sgu.report with
    | none => simp [State.counted, State.count, hr, h]
    | some c =>
      simp only [hr, h]
      exact ⟨⟨by simp, hc .badCommands, hc .reportsSpoiled⟩, by simp, by simp, by simp, by simp, hc⟩

theorem cutCell_keeps (s : State) : s.changesOnly s.cutCell [.sgu, .counters] := by
  refine changesOnly_ite (changesOnly_trans (t := { s with sgu := _ }) ?_ (endCell_keeps _)) (changesOnly_refl s _)
  intro b hb; cases b <;> simp_all [State.sameIn]

/-- An assembly in progress cut off ends without being valid, counted where it shows a REQUEST to this node (R166). -/
theorem cutMessage_cut (s : State) :
    s.cutMessage.mga = { s.mga with assembly := { next := 0, bytes := [], spoiled := false } } ∧
      s.counted s.cutMessage
        (if s.mga.assembly.open = true ∧ s.showsRequest s.mga.assembly.bytes = true then [.messagesSpoiled] else []) ∧
      s.changesOnly s.cutMessage [.mga, .counters] := by
  unfold State.cutMessage State.spoilMessage
  cases ho : s.mga.assembly.open <;> cases hr : s.showsRequest s.mga.assembly.bytes <;>
    (refine ⟨by simp, ?_, fun b hb => by cases b <;> simp_all [State.sameIn]⟩)
  · simp [State.counted, State.count]
  · simp [State.counted, State.count]
  · simp [State.counted, State.count]
  · rw [if_pos (by simp)]; exact bump_counted s .messagesSpoiled

/-- A reply in writing cut off is lost and counted (R168). -/
theorem cutReply_cut (s : State) :
    s.cutReply.mga = { s.mga with writing := none } ∧
      s.counted s.cutReply (if s.mga.writing = none then [] else [.repliesSpoiled]) := by
  unfold State.cutReply
  cases h : s.mga.writing with
  | none => exact ⟨by simp [← h], by simp [State.counted]⟩
  | some w => exact ⟨by simp, by rw [if_neg (by simp)]; exact bump_counted s .repliesSpoiled⟩

/-- What the blocks do at a change of service input (R82, R166, R168). -/
theorem cutService_cut (s : State) :
    s.cellCut s.cutService ∧ s.messageCut s.cutService ∧ s.cutService.sgu.emptyCell = none ∧
      s.cutService.sgu.dueCommand = s.sgu.dueCommand ∧ s.cutService.sgu.reports = s.sgu.reports ∧
      s.cutService.mga.buffer = s.mga.buffer ∧ s.cutService.mga.taken = s.mga.taken ∧
      s.changesOnly s.cutService [.sgu, .mga, .counters] := by
  have h1 := cutCell_cut s
  have k1 := cutCell_keeps s
  have h2 := cutMessage_cut s.cutCell
  have h3 := cutReply_cut s.cutCell.cutMessage
  have k3 := cutReply_keeps s.cutCell.cutMessage
  have m1 := changesOnly_mga k1 (by simp)
  have st1 := changesOnly_straps k1 (by simp)
  have sg2 := changesOnly_sgu h2.2.2 (by simp)
  have sg3 := changesOnly_sgu k3 (by simp)
  have hc : ∀ k, s.cutService.count k = s.cutCell.cutMessage.cutReply.count k := fun k => rfl
  refine ⟨⟨?_, ?_, ?_⟩, ⟨?_, ?_, ?_, ?_, ?_⟩, rfl, ?_, ?_, ?_, ?_, ?_⟩
  · intro hr
    have := h1.1.1 hr
    simp only [State.cutService, sg3, sg2]; exact this
  · rw [hc, h3.2 .badCommands, h2.2.1 .badCommands]; split <;> split <;> simp_all [h1.1.2.1]
  · rw [hc, h3.2 .reportsSpoiled, h2.2.1 .reportsSpoiled]; split <;> split <;> simp_all [h1.1.2.2]
  · simp only [State.cutService, h3.1, h2.1]
  · simp only [State.cutService, h3.1]
  · rfl
  · rw [hc, h3.2 .messagesSpoiled, h2.2.1 .messagesSpoiled]
    have := h1.2.2.2.2.2 .messagesSpoiled
    rw [m1]
    have e : s.cutCell.count .messagesSpoiled = s.count .messagesSpoiled := by
      rw [this]; cases s.sgu.role <;> simp
    rw [e]
    have hs : ∀ l, s.cutCell.showsRequest l = s.showsRequest l := fun l => by
      unfold State.showsRequest State.self; rw [st1]
    simp only [hs]
    have hp : (s.mga.assembly.open = true ∧ s.showsRequest s.mga.assembly.bytes = true) ↔
        0 < s.mga.assembly.next ∧ s.mga.assembly.next < 16 ∧ s.mga.assembly.bytes.getD 0 0 = 1 ∧
          s.mga.assembly.bytes.getD 1 0 = s.straps.zeroExtend 8 ∧ 2 ≤ s.mga.assembly.bytes.length := by
      simp [Assembly.open, State.showsRequest, State.self, and_assoc]
    by_cases hq : s.mga.assembly.open = true ∧ s.showsRequest s.mga.assembly.bytes = true
    · rw [if_pos hq, if_pos (hp.mp hq)]; split <;> simp
    · rw [if_neg hq, if_neg (fun h => hq (hp.mpr h))]; split <;> simp
  · rw [hc, h3.2 .repliesSpoiled, h2.2.1 .repliesSpoiled, h2.1, m1]
    have e : s.cutCell.count .repliesSpoiled = s.count .repliesSpoiled := by
      rw [h1.2.2.2.2.2 .repliesSpoiled]; cases s.sgu.role <;> simp
    rw [e]
    cases s.mga.writing <;> simp
  · simp only [State.cutService, sg3, sg2]; exact h1.2.1
  · simp only [State.cutService, sg3, sg2]; exact h1.2.2.1
  · simp only [State.cutService, h3.1, h2.1, m1]
  · simp only [State.cutService, h3.1, h2.1, m1]
  · have h := changesOnly_trans (changesOnly_mono h2.2.2 (m := [.sgu, .mga, .counters]) (by simp))
      (changesOnly_mono k3 (by simp))
    refine changesOnly_trans (changesOnly_trans (changesOnly_mono k1 (by simp)) h) ?_
    intro b hb; cases b <;> simp_all [State.sameIn, State.cutService]
theorem fieldMissed_keeps (s : State) : s.changesOnly s.fieldMissed [.mga, .counters] := by
  refine changesOnly_trans (t := { s with mga := _ }) ?_ (cutReply_keeps _)
  intro b hb; cases b <;> simp_all [State.sameIn]

/-- The assembly in progress is spoiled by a frame time without a field (R166). -/
theorem fieldMissed_spoils (s : State) (h : s.mga.assembly.open = true) :
    s.fieldMissed.mga.assembly.spoiled = true := by
  unfold State.fieldMissed State.cutReply
  simp only []
  split <;> simp [h]

theorem frameGone_keeps (s : State) : s.changesOnly s.frameGone [.rif, .sgu, .mga, .counters] := by
  have h : s.changesOnly (if s.rif.processed then s else s.partMissed) [.rif, .sgu, .mga, .counters] :=
    changesOnly_ite (changesOnly_refl s _) (changesOnly_mono (partMissed_keeps s) (by simp))
  unfold State.frameGone
  generalize (if s.rif.processed then s else s.partMissed) = u at h ⊢
  have g : u.changesOnly (if u.rif.fieldSeen then u else u.fieldMissed) [.rif, .sgu, .mga, .counters] :=
    changesOnly_ite (changesOnly_refl u _) (changesOnly_mono (fieldMissed_keeps u) (by simp))
  refine changesOnly_trans h (changesOnly_trans g ?_)
  intro b hb; cases b <;> simp_all [State.sameIn]

theorem phaseFrame_keeps (s : State) : s.changesOnly s.phaseFrame [.hwc] := by
  unfold State.phaseFrame
  refine changesOnly_ite ?_ (changesOnly_refl s _)
  intro b hb; cases b <;> simp_all [State.sameIn]

theorem setNumbers_keeps (s : State) (n : Nat × Nat) : s.changesOnly (s.setNumbers n) [.rif] := by
  intro b hb; cases b <;> simp_all [State.sameIn, State.setNumbers]

theorem clockTick_keeps (s : State) : s.changesOnly s.clockTick [.rif, .counters] := by
  have h : ∀ u : State, u.changesOnly
      { u with rif := { u.rif with clock := { u.rif.clock with following := false } } } [.rif, .counters] := by
    intro u b hb; cases b <;> simp_all [State.sameIn]
  have g : ∀ (u : State) (n : Nat × Nat), u.changesOnly (u.setNumbers n) [.rif, .counters] := fun u n =>
    changesOnly_mono (setNumbers_keeps u n) (by simp)
  unfold State.clockTick
  generalize hu : (if s.prc.service.isNone then
    { s with rif := { s.rif with clock := { s.rif.clock with following := false } } } else s) = u
  have hs : s.changesOnly u [.rif, .counters] := by
    rw [← hu]; exact changesOnly_ite (h s) (changesOnly_refl s _)
  refine changesOnly_trans hs ?_
  simp only []
  split
  · split
    · exact changesOnly_ite (g u _) (changesOnly_trans (g u _) (changesOnly_mono (bump_keeps _ _) (by simp)))
    · exact g u _
  · exact g u _

theorem chaFrameTime_keeps (s : State) : s.changesOnly s.chaFrameTime [.cha] := by
  intro b hb; cases b <;> simp_all [State.sameIn, State.chaFrameTime]

theorem missingStep_keeps (c : ChanNo) (s : State) : s.changesOnly (State.missingStep c s) [.vcn] :=
  changesOnly_ite (modVoice_keeps s c _) (changesOnly_refl s _)

theorem sendDownlink_keeps (s : State) : s.changesOnly s.sendDownlink [.tgn, .vcn, .hwc] := by
  refine changesOnly_trans (changesOnly_mono (forChans_keeps allChans _ [.vcn] missingStep_keeps s) (by simp)) ?_
  unfold State.sendDownlink
  generalize forChans allChans State.missingStep s = u
  intro b hb; cases b <;> simp_all [State.sameIn]

/-- A node frame time that begins moves no other part than these. -/
theorem nodeTick_keeps (s : State) :
    s.changesOnly s.nodeTick [.cha, .sgu, .tgn, .vcn, .rif, .hwc, .mga, .counters] := by
  have h : s.changesOnly s.frameGone.phaseFrame.clockTick.chaFrameTime.sendDownlink
      [.cha, .sgu, .tgn, .vcn, .rif, .hwc, .mga, .counters] :=
    changesOnly_trans (changesOnly_mono (frameGone_keeps s) (by simp))
      (changesOnly_trans (changesOnly_mono (phaseFrame_keeps _) (by simp))
        (changesOnly_trans (changesOnly_mono (clockTick_keeps _) (by simp))
          (changesOnly_trans (changesOnly_mono (chaFrameTime_keeps _) (by simp))
            (changesOnly_mono (sendDownlink_keeps _) (by simp)))))
  unfold State.nodeTick
  simp only []
  generalize s.frameGone.phaseFrame.clockTick.chaFrameTime.sendDownlink = u at h ⊢
  refine changesOnly_trans h ?_
  refine changesOnly_trans ?_ (changesOnly_trans (changesOnly_mono (nodeSlot_keeps _ _) (by simp))
    (changesOnly_mono (nodeSlot_keeps _ _) (by simp)))
  intro b hb; cases b <;> simp_all [State.sameIn]

theorem takeTiming_keeps (s : State) : s.changesOnly s.takeTiming [.rif, .hwc, .counters] := by
  unfold State.takeTiming
  split
  · exact changesOnly_refl s _
  · exact realign_keeps s _

/-! ### The frame times of an input (R120) -/

/-- The first mark found is that of a frame of this frame time or one to which the frame timing moves, never both. -/
theorem restart_none_of_found {x : InputPort} {a : Arrival} {f : Frame} (h : x.found a = some f) :
    x.restart a = none := by
  unfold InputPort.found at h
  unfold InputPort.restart
  split at h
  · split at h <;> simp_all
  · cases h

/-- A frame time that brings a frame ends with it, in TRACK, one frame time after the last. -/
theorem frameTime_found {x : InputPort} {a : Arrival} {f : Frame} (h : x.found a = some f) :
    x.lasts a = Config.frameBits ∧ x.classes a = true ∧
      (x.frameTime a).rx = .track ∧ (x.frameTime a).store = some f ∧ (x.frameTime a).seen = [] ∧
      (x.frameTime a).since = 0 ∧ (x.frameTime a).timing = x.timing := by
  have r := restart_none_of_found h
  unfold InputPort.frameTime InputPort.lasts InputPort.classes
  rw [h, r]
  simp only [InputPort.receive]
  split <;> simp

/-- A frame time without a mark is LOST and one frame time long; the input is in SEARCH at its timing. -/
theorem frameTime_lost {x : InputPort} {a : Arrival} (h : x.found a = none) (r : x.restart a = none) :
    x.lasts a = Config.frameBits ∧ x.classes a = true ∧
      (x.frameTime a).rx = .search ∧ (x.frameTime a).lastClass = .lost ∧ (x.frameTime a).store = none ∧
      (x.frameTime a).since = 0 ∧ (x.frameTime a).timing = x.timing ∧
      (x.frameTime a).lastMarker = x.lastMarker := by
  unfold InputPort.frameTime InputPort.lasts InputPort.classes
  rw [h, r]
  simp [InputPort.lose]

/-- A mark at a position other than the expected one moves the frame timing there, with TRACK and no frame stored; the
bytes from it on are kept. The frame time it cuts off has a class, LOST, only where it began in TRACK. -/
theorem frameTime_moved {x : InputPort} {a : Arrival} {d : Nat} {l : List Byte} (r : x.restart a = some (d, l)) :
    x.lasts a = d - Config.frameBits ∧ (x.classes a = true ↔ x.rx = .track) ∧
      (x.frameTime a).rx = .track ∧ (x.frameTime a).lastClass = .lost ∧ (x.frameTime a).store = none ∧
      (x.frameTime a).seen = l ∧ (x.frameTime a).since = x.since + Config.frameBits - d ∧
      (x.frameTime a).timing = (x.timing + d) % Config.frameBits ∧
      (x.frameTime a).lastMarker = x.lastMarker := by
  have h : x.found a = none := by
    cases h : x.found a with
    | none => rfl
    | some f => rw [restart_none_of_found h] at r; cases r
  unfold InputPort.frameTime InputPort.lasts InputPort.classes
  rw [h, r]
  simp [InputPort.lose, InputPort.moveTo]

theorem countClass_keeps (s : State) (i : RingInput) : s.changesOnly (s.countClass i) [.counters] := by
  unfold State.countClass
  split
  · exact changesOnly_refl s _
  all_goals exact bump_keeps s _

theorem forgetStored_keeps (s : State) (i : RingInput) : s.changesOnly (s.forgetStored i) [.sgu, .mga, .rif] := by
  intro b hb; cases b <;> simp_all [State.sameIn, State.forgetStored, State.modOuts]

theorem classInput_keeps (s : State) (i : RingInput) : s.changesOnly (s.classInput i) [.prc, .counters] :=
  changesOnly_trans (changesOnly_mono (countClass_keeps s i) (by simp))
    (changesOnly_mono (judgeInput_keeps _ i) (by simp))

/-- What INPUT_FRAME_TIME changes before a frame is served: nothing of calls, channels, lines or tones, and PRC only
where a frame time ends that has a class (R120, R121). -/
theorem receiveOn_keeps (s : State) (i : RingInput) (a : Arrival) :
    s.changesOnly (s.receiveOn i a)
      (if (s.input i).classes a then [.sgu, .mga, .rif, .prc, .hwc, .counters] else [.sgu, .mga, .rif, .hwc, .counters]) := by
  have clock (v : State) :
      v.changesOnly (if v.rif.clock.reference = some i then v.refEnds i else v) [.rif, .hwc, .counters] :=
    changesOnly_ite (refEnds_keeps v i) (changesOnly_refl v _)
  have arrives (n : Nat) :
      s.changesOnly (((s.elapse n).modInput i (InputPort.frameTime a)).forgetStored i) [.sgu, .mga, .rif] :=
    changesOnly_trans (changesOnly_mono (elapse_keeps s n) (by simp))
      (changesOnly_trans (changesOnly_mono (modInput_keeps _ i _) (by simp)) (forgetStored_keeps _ i))
  have h := arrives ((s.input i).lasts a - (s.input i).since)
  unfold State.receiveOn
  simp only []
  generalize ((s.elapse ((s.input i).lasts a - (s.input i).since)).modInput i (InputPort.frameTime a)).forgetStored i = u
    at h ⊢
  cases (s.input i).classes a with
  | true =>
    have g : u.changesOnly (u.classInput i) [.prc, .counters] := classInput_keeps u i
    exact changesOnly_trans (changesOnly_mono h (by simp))
      (changesOnly_trans (changesOnly_mono g (by simp)) (changesOnly_mono (clock (u.classInput i)) (by simp)))
  | false => exact changesOnly_trans (changesOnly_mono h (by simp)) (changesOnly_mono (clock u) (by simp))

/-! ### A switch of the tables on the highway (R104) -/

theorem retone_keeps (old : Bank) (s : State) : s.changesOnly (s.retone old) [.tgn, .hwc] := by
  unfold State.retone
  refine changesOnly_ite ?_ (changesOnly_refl s _)
  intro b hb; cases b <;> simp_all [State.sameIn]

/-- A frame that sends samples formed for it takes the new tables' sample for each port that sounded; every other
keeps its samples. -/
theorem retoned_voice (b : Bank) (formed : Vector Cadence 32) (d : Downlink) (p : PortNo) :
    (d.retoned b formed).voice[p] =
      if d.live ∧ formed[p].sounds then formed[p].sample b else d.voice[p] := by
  unfold Downlink.retoned
  by_cases h : d.live <;> simp [h]

/-- No other part of a highway frame changes with the tables. -/
theorem retoned_rest (b : Bank) (formed : Vector Cadence 32) (d : Downlink) :
    d.retoned b formed = { d with voice := (d.retoned b formed).voice } := by
  unfold Downlink.retoned
  split <;> rfl

/-- A cadence moves with the tables only where the frame and its boundary left it. -/
theorem readvanced_of_ne {old new : Bank} {was c : Cadence} (h : c ≠ (was.advance old).boundary) :
    Cadence.readvanced old new was c = c := if_neg h

/-! ### The service input (R129, R130, R139) -/

/-- A realignment counts in slips alone (R130). -/
theorem realign_count (s : State) (timing : Nat) {k : Counter} (h : k ≠ .slips) :
    (s.realign timing).count k = s.count k := by
  unfold State.realign
  split
  · rfl
  · exact State.bump_count_of_ne s h

theorem clockTo_keeps (s : State) (i : Option RingInput) : s.changesOnly (s.clockTo i) [.rif, .hwc, .counters] := by
  have h : ∀ r : Rif, s.changesOnly { s with rif := r } [.rif, .hwc, .counters] := fun r b hb => by
    cases b <;> simp_all [State.sameIn]
  cases i with
  | none => exact h _
  | some i =>
    unfold State.clockTo
    simp only []
    split
    · exact h _
    · exact changesOnly_trans (h _) (realign_keeps _ _)

/-- Naming a reference counts in slips alone (R130). -/
theorem clockTo_count (s : State) (i : Option RingInput) {k : Counter} (h : k ≠ .slips) :
    (s.clockTo i).count k = s.count k := by
  cases i with
  | none => rfl
  | some i =>
    unfold State.clockTo
    simp only []
    split
    · rfl
    · exact realign_count _ _ h

/-- What naming a service input can do: a change of it cuts what passes, and no change does nothing (R82, R139, R166,
R168). -/
theorem nameService_told (s : State) (i : Option RingInput) :
    s.serviceTold (s.nameService i) ∧ (s.nameService i).prc.service = i := by
  unfold State.nameService
  split
  · next h => exact ⟨⟨fun x => absurd rfl x, fun _ => ⟨rfl, rfl, fun _ _ => rfl⟩, fun _ _ => rfl⟩, h⟩
  · next h =>
    simp only []
    generalize hu : ({ s with prc := _ } : State) = u
    have hk := clockTo_keeps u.cutService i
    obtain ⟨h1, h2, h3, h4, h5, h6, h7, h8⟩ := cutService_cut u
    have e1 : (u.cutService.clockTo i).sgu = u.cutService.sgu := changesOnly_sgu hk (by simp)
    have e2 : (u.cutService.clockTo i).mga = u.cutService.mga := changesOnly_mga hk (by simp)
    have e3 : (u.cutService.clockTo i).prc = u.prc := by rw [changesOnly_prc hk (by simp), changesOnly_prc h8 (by simp)]
    have e4 : u.prc.service = i := by rw [← hu]
    have hs : s.sgu = u.sgu := by rw [← hu]
    have hm : s.mga = u.mga := by rw [← hu]
    have hst : s.straps = u.straps := by rw [← hu]
    have hcn : ∀ k, s.count k = u.count k := by rw [← hu]; intro k; rfl
    refine ⟨⟨fun _ => ⟨?_, ?_, ?_, ?_, ?_, ?_⟩, fun x => ?_, fun k hk => ?_⟩, ?_⟩
    · unfold State.cellCut at h1 ⊢
      rw [e1, hs, hcn, hcn, clockTo_count _ _ (by simp), clockTo_count _ _ (by simp)]; exact h1
    · unfold State.messageCut at h2 ⊢
      rw [e2, hm, hst, hcn, hcn, clockTo_count _ _ (by simp), clockTo_count _ _ (by simp)]; exact h2
    · rw [e1]; exact h3
    · rw [e1, hs]; exact h4
    · rw [e2, hm]; exact h6
    · rw [e2, hm]; exact h7
    · exact absurd (by rw [← x, e3, e4]) h
    · rw [e1, h5, hs]
    · rw [e3, e4]

end Sys2Proof.Machine
end

