-- ==== Sys2Proof/Laws/PerInstr.lean ====
section
/-! SUPPORT. A law of every command as syntax: what carries it to the part. -/

namespace Sys2Proof.Laws

/-- A command comes by one way at most: one that a signalling cell carries is carried by no management message
and follows from no count, and one that a message carries follows from no count. -/
def Written.Statement (i : Instr) : Prop := ∀ node : Byte,
  ((encodeCommand node i).isSome = true → encodeRequest node i = none ∧ Machine.isConsequence i = false) ∧
    ((encodeRequest node i).isSome = true → Machine.isConsequence i = false)

theorem Written.powerOn (straps : BitVec 6) : Written.Statement (.powerOn straps) :=
  fun _ => ⟨fun h => Bool.noConfusion h, fun h => Bool.noConfusion h⟩
theorem Written.nodeFrameTime : Written.Statement .nodeFrameTime :=
  fun _ => ⟨fun h => Bool.noConfusion h, fun h => Bool.noConfusion h⟩
theorem Written.inputFrameTime (i : RingInput) (arrival : Option Arrival) : Written.Statement (.inputFrameTime i arrival) :=
  fun _ => ⟨fun h => Bool.noConfusion h, fun h => Bool.noConfusion h⟩
theorem Written.ack (kind port ref echo : Byte) : Written.Statement (.ack kind port ref echo) :=
  fun _ => ⟨fun _ => ⟨rfl, rfl⟩, fun h => Bool.noConfusion h⟩
theorem Written.answer (ref : Byte) : Written.Statement (.answer ref) :=
  fun _ => ⟨fun _ => ⟨rfl, rfl⟩, fun h => Bool.noConfusion h⟩
theorem Written.hold (ref : Byte) : Written.Statement (.hold ref) :=
  fun _ => ⟨fun _ => ⟨rfl, rfl⟩, fun h => Bool.noConfusion h⟩
theorem Written.resume (ref : Byte) : Written.Statement (.resume ref) :=
  fun _ => ⟨fun _ => ⟨rfl, rfl⟩, fun h => Bool.noConfusion h⟩
theorem Written.clear (ref : Byte) : Written.Statement (.clear ref) :=
  fun _ => ⟨fun _ => ⟨rfl, rfl⟩, fun h => Bool.noConfusion h⟩
theorem Written.recall (port channel : Byte) : Written.Statement (.recall port channel) :=
  fun _ => ⟨fun _ => ⟨rfl, rfl⟩, fun h => Bool.noConfusion h⟩
theorem Written.cancel (port : Byte) : Written.Statement (.cancel port) :=
  fun _ => ⟨fun _ => ⟨rfl, rfl⟩, fun h => Bool.noConfusion h⟩
theorem Written.inputDown (i : RingInput) : Written.Statement (.inputDown i) :=
  fun _ => ⟨fun h => Bool.noConfusion h, fun h => Bool.noConfusion h⟩
theorem Written.inputUp (i : RingInput) : Written.Statement (.inputUp i) :=
  fun _ => ⟨fun h => Bool.noConfusion h, fun h => Bool.noConfusion h⟩
theorem Written.followActive : Written.Statement .followActive :=
  fun _ => ⟨fun h => Bool.noConfusion h, fun h => Bool.noConfusion h⟩
theorem Written.switchoverHoldEnd : Written.Statement .switchoverHoldEnd :=
  fun _ => ⟨fun h => Bool.noConfusion h, fun h => Bool.noConfusion h⟩
theorem Written.superframeBoundary : Written.Statement .superframeBoundary :=
  fun _ => ⟨fun h => Bool.noConfusion h, fun h => Bool.noConfusion h⟩
theorem Written.settle (p : PortNo) : Written.Statement (.settle p) :=
  fun _ => ⟨fun h => Bool.noConfusion h, fun h => Bool.noConfusion h⟩
theorem Written.reversalEnd (p : PortNo) : Written.Statement (.reversalEnd p) :=
  fun _ => ⟨fun h => Bool.noConfusion h, fun h => Bool.noConfusion h⟩
theorem Written.wiringReversedToggle (p : PortNo) : Written.Statement (.wiringReversedToggle p) :=
  fun _ => ⟨fun h => Bool.noConfusion h, fun h => Bool.noConfusion h⟩
theorem Written.uplinkFrame (slots : Vector PliSlot 8) : Written.Statement (.uplinkFrame slots) :=
  fun _ => ⟨fun h => Bool.noConfusion h, fun h => Bool.noConfusion h⟩
theorem Written.pliReady (i : PliNo) : Written.Statement (.pliReady i) :=
  fun _ => ⟨fun h => Bool.noConfusion h, fun h => Bool.noConfusion h⟩
theorem Written.pliLossTimeout (i : PliNo) : Written.Statement (.pliLossTimeout i) :=
  fun _ => ⟨fun h => Bool.noConfusion h, fun h => Bool.noConfusion h⟩
theorem Written.accessReply : Written.Statement .accessReply :=
  fun _ => ⟨fun h => Bool.noConfusion h, fun h => Bool.noConfusion h⟩
theorem Written.accessSent : Written.Statement .accessSent :=
  fun _ => ⟨fun h => Bool.noConfusion h, fun h => Bool.noConfusion h⟩
theorem Written.accessTimeout : Written.Statement .accessTimeout :=
  fun _ => ⟨fun h => Bool.noConfusion h, fun h => Bool.noConfusion h⟩
theorem Written.agcBlock (c : ChanNo) : Written.Statement (.agcBlock c) :=
  fun _ => ⟨fun h => Bool.noConfusion h, fun h => Bool.noConfusion h⟩
theorem Written.missingCountFull (c : ChanNo) : Written.Statement (.missingCountFull c) :=
  fun _ => ⟨fun h => Bool.noConfusion h, fun h => Bool.noConfusion h⟩
theorem Written.claimTimeout (c : ChanNo) : Written.Statement (.claimTimeout c) :=
  fun _ => ⟨fun h => Bool.noConfusion h, fun h => Bool.noConfusion h⟩
theorem Written.releaseTimeout (c : ChanNo) : Written.Statement (.releaseTimeout c) :=
  fun _ => ⟨fun h => Bool.noConfusion h, fun h => Bool.noConfusion h⟩
theorem Written.assignmentExpiry (c : ChanNo) : Written.Statement (.assignmentExpiry c) :=
  fun _ => ⟨fun h => Bool.noConfusion h, fun h => Bool.noConfusion h⟩
theorem Written.withdrawal : Written.Statement .withdrawal :=
  fun _ => ⟨fun h => Bool.noConfusion h, fun h => Bool.noConfusion h⟩
theorem Written.ageing (p : PortNo) : Written.Statement (.ageing p) :=
  fun _ => ⟨fun h => Bool.noConfusion h, fun h => Bool.noConfusion h⟩
theorem Written.parkTimeout (p : PortNo) : Written.Statement (.parkTimeout p) :=
  fun _ => ⟨fun h => Bool.noConfusion h, fun h => Bool.noConfusion h⟩
theorem Written.decoderWaitExpiry (p : PortNo) : Written.Statement (.decoderWaitExpiry p) :=
  fun _ => ⟨fun h => Bool.noConfusion h, fun h => Bool.noConfusion h⟩
theorem Written.identityWindowExpiry (d : DecNo) : Written.Statement (.identityWindowExpiry d) :=
  fun _ => ⟨fun h => Bool.noConfusion h, fun h => Bool.noConfusion h⟩
theorem Written.testPoint : Written.Statement .testPoint :=
  fun _ => ⟨fun h => Bool.noConfusion h, fun h => Bool.noConfusion h⟩
theorem Written.testDischargeEnd : Written.Statement .testDischargeEnd :=
  fun _ => ⟨fun h => Bool.noConfusion h, fun h => Bool.noConfusion h⟩
theorem Written.testChargeEnd : Written.Statement .testChargeEnd :=
  fun _ => ⟨fun h => Bool.noConfusion h, fun h => Bool.noConfusion h⟩
theorem Written.testResultTimeout : Written.Statement .testResultTimeout :=
  fun _ => ⟨fun h => Bool.noConfusion h, fun h => Bool.noConfusion h⟩
theorem Written.cadencePhaseEnd (p : PortNo) : Written.Statement (.cadencePhaseEnd p) :=
  fun _ => ⟨fun h => Bool.noConfusion h, fun h => Bool.noConfusion h⟩
theorem Written.reportSend : Written.Statement .reportSend :=
  fun _ => ⟨fun h => Bool.noConfusion h, fun h => Bool.noConfusion h⟩
theorem Written.confirmTimeout (k : EntryKey) : Written.Statement (.confirmTimeout k) :=
  fun _ => ⟨fun h => Bool.noConfusion h, fun h => Bool.noConfusion h⟩
theorem Written.identify (r : Request) : Written.Statement (.identify r) :=
  fun _ => ⟨fun h => Bool.noConfusion h, fun _ => rfl⟩
theorem Written.readWords (r : Request) : Written.Statement (.readWords r) :=
  fun _ => ⟨fun h => Bool.noConfusion h, fun _ => rfl⟩
theorem Written.readGroup (r : Request) : Written.Statement (.readGroup r) :=
  fun _ => ⟨fun h => Bool.noConfusion h, fun _ => rfl⟩
theorem Written.writeWords (r : Request) : Written.Statement (.writeWords r) :=
  fun _ => ⟨fun h => Bool.noConfusion h, fun _ => rfl⟩
theorem Written.commit (r : Request) : Written.Statement (.commit r) :=
  fun _ => ⟨fun h => Bool.noConfusion h, fun _ => rfl⟩
theorem Written.bankSwitch : Written.Statement .bankSwitch :=
  fun _ => ⟨fun h => Bool.noConfusion h, fun h => Bool.noConfusion h⟩
theorem Written.discard (r : Request) : Written.Statement (.discard r) :=
  fun _ => ⟨fun h => Bool.noConfusion h, fun _ => rfl⟩
theorem Written.readCounters (r : Request) : Written.Statement (.readCounters r) :=
  fun _ => ⟨fun h => Bool.noConfusion h, fun _ => rfl⟩
theorem Written.clearCounters (r : Request) : Written.Statement (.clearCounters r) :=
  fun _ => ⟨fun h => Bool.noConfusion h, fun _ => rfl⟩
theorem Written.clearExcursion (r : Request) : Written.Statement (.clearExcursion r) :=
  fun _ => ⟨fun h => Bool.noConfusion h, fun _ => rfl⟩
theorem Written.testLine (r : Request) : Written.Statement (.testLine r) :=
  fun _ => ⟨fun h => Bool.noConfusion h, fun _ => rfl⟩
theorem Written.pliAccess (r : Request) : Written.Statement (.pliAccess r) :=
  fun _ => ⟨fun h => Bool.noConfusion h, fun _ => rfl⟩
theorem Written.restartHighway (r : Request) : Written.Statement (.restartHighway r) :=
  fun _ => ⟨fun h => Bool.noConfusion h, fun _ => rfl⟩
theorem Written.highwayRestartingEnd : Written.Statement .highwayRestartingEnd :=
  fun _ => ⟨fun h => Bool.noConfusion h, fun h => Bool.noConfusion h⟩
theorem Written.highwaySettlingEnd : Written.Statement .highwaySettlingEnd :=
  fun _ => ⟨fun h => Bool.noConfusion h, fun h => Bool.noConfusion h⟩
theorem Written.restartNode (r : Request) : Written.Statement (.restartNode r) :=
  fun _ => ⟨fun h => Bool.noConfusion h, fun _ => rfl⟩
theorem Written.bypass (r : Request) : Written.Statement (.bypass r) :=
  fun _ => ⟨fun h => Bool.noConfusion h, fun _ => rfl⟩
theorem Written.leaveBypass (r : Request) : Written.Statement (.leaveBypass r) :=
  fun _ => ⟨fun h => Bool.noConfusion h, fun _ => rfl⟩
theorem Written.replyWrite : Written.Statement .replyWrite :=
  fun _ => ⟨fun h => Bool.noConfusion h, fun h => Bool.noConfusion h⟩
theorem Written.badRequest (kind : Byte) (r : Request) : Written.Statement (.badRequest kind r) :=
  fun _ => ⟨fun h => Bool.noConfusion h, fun _ => rfl⟩

end Sys2Proof.Laws
end

