-- ==== Sys2Proof/Laws/Tables.lean ====
section
/-! SUPPORT. What reading and writing a bank of tables does: reads after writes, and the canonical form kept by
every operation on a bank. -/

namespace Sys2Proof.Machine

/-- A word read after a word was put: the word itself at its address, the old word elsewhere. -/
theorem Bank.read_put (b : Bank) (a : Nat) (w : Word) (x : Nat) (lo : Nat) (h : Bank.wfFrom lo b = true) :
    Bank.read (Bank.put b a w) x = if x = a then w else Bank.read b x := by
  induction b generalizing lo with
  | nil =>
    simp only [Bank.put]
    split
    · next hw => by_cases hx : x = a <;> simp [Bank.read, hx, hw]
    · simp [Bank.read]
  | cons e rest ih =>
    obtain ⟨a', w'⟩ := e
    simp only [Bank.wfFrom, Bool.and_eq_true, decide_eq_true_eq] at h
    obtain ⟨⟨⟨⟨_, _⟩, _⟩, _⟩, hr⟩ := h
    have rest_default : ∀ y, y < a' + 1 → Bank.read rest y = defaultWord y := by
      intro y hy
      clear ih
      have aux : ∀ (r : Bank) (l : Nat), Bank.wfFrom l r = true → y < l → Bank.read r y = defaultWord y := by
        intro r
        induction r with
        | nil => intro l _ _; rfl
        | cons e r ihr =>
          obtain ⟨c, v⟩ := e
          intro l hl hy
          simp only [Bank.wfFrom, Bool.and_eq_true, decide_eq_true_eq] at hl
          obtain ⟨⟨⟨⟨hlc, _⟩, _⟩, _⟩, hr⟩ := hl
          have : y ≠ c := by omega
          simp [Bank.read, this, ihr (c + 1) hr (by omega)]
      exact aux rest _ hr hy
    simp only [Bank.put]
    split
    · split
      · next hlt hw =>
        by_cases hx : x = a
        · subst hx
          have : x ≠ a' := by omega
          simp [Bank.read, this, rest_default x (by omega), hw]
        · simp [hx]
      · simp only [Bank.read]
    · split
      · next _ heq =>
        subst heq
        split
        · next hw =>
          by_cases hx : x = a
          · subst hx; simp [rest_default x (by omega), hw]
          · simp [Bank.read, hx]
        · by_cases hx : x = a <;> simp [Bank.read, hx]
      · next hlt hne =>
        simp only [Bank.read]
        by_cases hx : x = a'
        · have : x ≠ a := by omega
          simp [hx, show ¬ a' = a from by omega]
        · simp [hx, ih _ hr]

/-- Putting a word inside the tables, with no bit outside its fields, keeps the canonical form. -/
theorem Bank.put_wfFrom (b : Bank) (a : Nat) (w : Word) (lo : Nat) (h : Bank.wfFrom lo b = true) (hlo : lo ≤ a)
    (ha : a < bankSize) (hw : w &&& fieldMask a = w) : Bank.wfFrom lo (Bank.put b a w) = true := by
  induction b generalizing lo with
  | nil =>
    simp only [Bank.put]
    split
    · rfl
    · next hd => simp [Bank.wfFrom, hlo, ha, hd, hw]
  | cons e rest ih =>
    obtain ⟨a', w'⟩ := e
    have h' := h
    simp only [Bank.wfFrom, Bool.and_eq_true, decide_eq_true_eq] at h'
    obtain ⟨⟨⟨⟨h1, h2⟩, h3⟩, h4⟩, hr⟩ := h'
    have weaken : ∀ (r : Bank) (l m : Nat), m ≤ l → Bank.wfFrom l r = true → Bank.wfFrom m r = true := by
      intro r l m hml hl
      cases r with
      | nil => rfl
      | cons e r =>
        obtain ⟨c, v⟩ := e
        simp only [Bank.wfFrom, Bool.and_eq_true, decide_eq_true_eq] at hl ⊢
        obtain ⟨⟨⟨⟨g1, g2⟩, g3⟩, g4⟩, g5⟩ := hl
        exact ⟨⟨⟨⟨by omega, g2⟩, g3⟩, g4⟩, g5⟩
    simp only [Bank.put]
    split
    · split
      · exact h
      · next hlt hd =>
        simp only [Bank.wfFrom, Bool.and_eq_true, decide_eq_true_eq]
        exact ⟨⟨⟨⟨hlo, ha⟩, hd⟩, hw⟩, ⟨⟨⟨by omega, h2⟩, h3⟩, h4⟩, hr⟩
    · split
      · next _ heq =>
        subst heq
        split
        · exact weaken rest _ _ (by omega) hr
        · next hd =>
          simp only [Bank.wfFrom, Bool.and_eq_true, decide_eq_true_eq]
          exact ⟨⟨⟨⟨h1, ha⟩, hd⟩, hw⟩, hr⟩
      · next hlt hne =>
        simp only [Bank.wfFrom, Bool.and_eq_true, decide_eq_true_eq]
        exact ⟨⟨⟨⟨h1, h2⟩, h3⟩, h4⟩, ih (a' + 1) hr (by omega)⟩

/-- A write keeps the canonical form (R156). -/
theorem Bank.write_wf (b : Bank) (a : Nat) (w : Word) (h : b.wf = true) : (b.write a w).wf = true := by
  unfold Bank.write
  split
  · next ha =>
    refine Bank.put_wfFrom b a _ 0 h (by omega) ha ?_
    rw [BitVec.and_assoc, BitVec.and_self]
  · exact h

/-- A word read after a write: its fields as written at its address, the old word elsewhere (R156). -/
theorem Bank.read_write (b : Bank) (a : Nat) (w : Word) (x : Nat) (h : b.wf = true) (ha : a < bankSize) :
    Bank.read (b.write a w) x = if x = a then w &&& fieldMask a else Bank.read b x := by
  unfold Bank.write
  rw [if_pos ha, Bank.read_put b a _ x 0 h]

/-- The words of a request written one after another keep the canonical form. -/
theorem Bank.writeWords_wf (b : Bank) (t : Table) (r : Request) (h : b.wf = true) :
    (b.writeWords t r).wf = true := by
  unfold Bank.writeWords
  generalize List.range r.count = l
  induction l generalizing b with
  | nil => exact h
  | cons j l ih => exact ih _ (Bank.write_wf b _ _ h)

/-- A table's words stand inside the bank. -/
theorem Table.base_add_lt (t : Table) {k : Nat} (h : k < t.size) : t.base + k < bankSize := by
  cases t <;> simp only [Table.size, Table.base, bankSize] at * <;> omega

/-- Two tables have no address in common. -/
theorem Table.base_inj {t t' : Table} {k k' : Nat} (h : k < t.size) (h' : k' < t'.size)
    (e : t.base + k = t'.base + k') : t = t' ∧ k = k' := by
  cases t <;> cases t' <;> simp only [Table.size, Table.base, true_and, reduceCtorEq, false_and] at * <;> omega

end Sys2Proof.Machine
end

