-- ==== Sys2Proof/Tests/Slice0.lean ====
section
/-! SUPPORT. The package's own tests: ill-formed commands refused, bytes decoded, the manual's worked figures,
and for each statement a state that meets its hypotheses. -/

namespace Sys2Proof.Tests

open Sys2Proof Sys2Proof.Machine

set_option Elab.async false

/-! ### Helpers -/

/-- What a command answers, as a state; the state itself where it does not answer one. -/
def after (c : Instr) (s : State) : State :=
  match exec c s with
  | .next t => t
  | _ => s

/-- A node in service: THROUGH on PIN, the highway RUNNING with every PLI ready, every line ONHOOK. -/
def up : State :=
  { State.reset with
    lsv := { State.reset.lsv with lines := Vector.replicate 32 { settled := .onhook } },
    prc := { State.reset.prc with
      pinHealth := { up := true, miss := 0 }, sinHealth := { up := true, miss := 0 }, state := .through,
      service := some .pin },
    rif := { State.reset.rif with
      clock := { State.reset.rif.clock with following := true, reference := some .pin, started := true } },
    hwc := { State.reset.hwc with
      state := .running, phaseCount := 0, plis := Vector.replicate 8 { ready := true } } }

/-- The record of a call in a state, with reference 1, class 2, and the channel given. -/
def call (st : CallState) (c : Option ChanNo) : CallRecord :=
  { state := st, ref := some 1, baseClass := some 2, effClass := some 2, announced := c.isSome, channel := c,
    lastChannel := c, identity := some .notFitted, latched := some (up.post 0).latched }

/-- A node in service with a call on port 0 in a state, with channel 0 BOUND to it where it holds one, and its
line driven as given. -/
def withCall (st : CallState) (held : Bool) (d : DriveMode) : State :=
  let s := up.modRecord 0 (fun _ => call st (if held then some 0 else none))
  let s := s.modCadence 0 (fun _ => { role := roleOf st })
  let s := s.modLine 0 (fun l => { l with settled := .offhook, drive := d })
  let s := if held then s.modChan 0 (fun _ => { state := .bound, port := some 0 }) else s
  { s with
    ccl := { s.ccl with refCounter := 1, queue := if st = .waiting then [0] else [] },
    sgu := { s.sgu with reports := [{ key := .call 0 }, { key := .node }] } }

/-- Some words of the default tables changed. -/
def tables (l : List (Nat × Word)) : Bank := l.foldl (fun b e => b.write e.1 e.2) []

/-- A state with other tables in force. -/
def withTables (s : State) (l : List (Nat × Word)) : State :=
  { s with tbs := { s.tbs with active := tables l, index := identityIndex (tables l) } }

/-- A request with its flag byte, byte 5 and first index. -/
def req (flags unit : Byte) (first : Word) : Request := ⟨7, flags, unit, first, Vector.replicate 24 0⟩

/-- Sixteen bits of a number, most significant first. -/
def bits16 (n : Nat) : List Bool := (List.range 16).map (fun k => n.testBit (15 - k))

/-- A frame with channel 0's tag as given. -/
def tagged (k : TagKind) (node : BitVec 6) : Frame := withCheck (putTag (fillFrame 0 0) 0 ⟨k, node⟩)

/-- An ACTIVE frame numbered 5 in superframe 9. -/
def active : Frame := withCheck (putByte (fillFrame 5 9) 4 0x5A)

/-- A node in service that stored a good EMPTY frame from PIN. -/
def stored : State :=
  up.modInput .pin (fun x =>
    { x with rx := .track, lastClass := .good, lastMarker := some .active, store := some active })

/-- A line of port 0 whose candidate is due to become its settled state. -/
def settling (s : State) (old c : LineState) : State :=
  s.modLine 0 (fun l => { l with settled := old, candidate := some c, debounce := 1, settleDue := true })

/-- A node held in BYPASS by request. -/
def bypassed : State :=
  { up with
    prc := { up.prc with state := .bypass, service := none, cause := some .request },
    sgu := { up.sgu with reports := [], flags := {} } }

/-- One channel map entry. -/
def entry (e : ChanEntry) : State := up.modChan 0 (fun _ => e)

/-- The insulation test on port 0 in a phase with its count. -/
def testing (ph : TestPhase) (n : Nat) : State :=
  { up with lsv := { up.lsv with testPhase := ph, testPort := some 0, phaseCount := n } }

/-- An access in flight. -/
def access (write sent : Bool) (timer : Nat) (reply : Option Word) : Access :=
  { position := 7, index := 63, write := write, data := 5, sent := sent, timer := timer, request := req 0 7 63,
    composed := true, fresh := false, reply := reply }

/-- A connected call, its line driven REVERSED. -/
def talking0 : State := withCall .connected true .reversed

/-! ### Invariants: a state that meets them all, with a step from it -/

/-- A boundary is due. -/
def atBoundary (s : State) : State :=
  { s with rif := { s.rif with clock := { s.rif.clock with boundaryDue := true } } }

/-- A connected call, with a boundary waiting to be taken. -/
def connected : State := atBoundary { withCall .connected true .reversed with pending := [.superframeBoundary] }

theorem witness_tables_kept : connected.tablesKept = true ∧ ∃ t, step connected = .next t :=
  ⟨by decide +kernel, _, rfl⟩
theorem witness_sound_kept : connected.soundKept :=
  ⟨by decide +kernel, by decide +kernel, by decide +kernel⟩
theorem witness_ranges_kept : connected.countersKept ∧ connected.currentsKept ∧ connected.voiceKept := by
  unfold State.countersKept State.currentsKept State.voiceKept sampleOk
  exact ⟨by decide +kernel, by decide +kernel, by decide +kernel, by decide +kernel, by decide +kernel, nofun⟩
theorem witness_bounds_kept :
    connected.oneClaim ∧ connected.heldKept ∧ connected.closingKept ∧ connected.closingsNumbered := by
  unfold State.oneClaim State.heldKept State.closingKept State.closingsNumbered
  exact ⟨by decide +kernel, by decide +kernel, by decide +kernel, by decide +kernel⟩
theorem witness_calls_kept : connected.queueKept ∧ connected.bindingsKept ∧ connected.callsKept := by
  unfold State.queueKept State.bindingsKept State.callsKept
  exact ⟨by decide +kernel, by decide +kernel, by decide +kernel⟩
theorem witness_reports_kept : connected.reportsKept := by
  unfold State.reportsKept; decide +kernel
theorem witness_roles_kept : connected.rolesKept ∧ connected.drivesKept ∧ connected.protKept ∧ connected.clockKept := by
  unfold State.rolesKept State.drivesKept State.protKept State.clockKept
  exact ⟨by decide +kernel, by decide +kernel, by decide +kernel, by decide +kernel⟩
theorem witness_bypass_kept :
    (State.powerOn 0).bypassKept ∧ (State.powerOn 0).rolesKept ∧ (State.powerOn 0).inBypass = true := by
  unfold State.bypassKept State.rolesKept
  exact ⟨by decide +kernel, by decide +kernel, by decide +kernel⟩

/-! ### States that meet the hypotheses of each other statement -/

theorem witness_front : connected.pending = [.superframeBoundary] ∧ up.pending = [] := by decide +kernel
theorem witness_not_due : isConsequence (.settle 31) = true ∧ up.isDue (.settle 31) = false := by decide +kernel
theorem witness_straps : ((0 : BitVec 6) = 0 ∨ (0 : BitVec 6) = 63) ∧ ((62 : BitVec 6) ≠ 0 ∧ (62 : BitVec 6) ≠ 63) := by
  decide
theorem witness_round_trip :
    (encodeCommand 62 (.recall 31 19)).isSome = true ∧ (Instr.badRequest 16 (req 0 0 0)).wellFormed = true ∧
      (encodeRequest 62 (.badRequest 16 (req 0 0 0))).isSome = true ∧
      byteAt (requestMessage 62 0 (req 0 0 0)) 0 = 1 := by decide +kernel
theorem witness_measurement :
    State.reset.supervision (portAt 0 (slotLine (Vector.replicate 16 0))) ≠ .normal ∧
      up.supervision (portAt 0 (slotLine (Vector.replicate 16 0))) = .normal ∧ up.lsv.testPort = none := by
  decide +kernel
/-- A slot that measures line 0 of its position with a tag and a code. -/
def measuring (tag : Nat) (code : Word) : PliSlot :=
  putWord (putByte (putByte (Vector.replicate 16 0) 0 0x80) 9 (byte (16 * tag))) 10 code

theorem witness_measurement_under_test :
    (∀ x ∈ [testing .discharge 3, testing .charge 3, testing .resultWait 0],
      x.lsv.testPort = some (portAt 0 (slotLine (measuring 3 0))) ∧ (x.post 0).enabled = true ∧
        (x.line 0).drive ≠ .reversed ∧ (x.record 0).state = .idle) ∧
    slotTag (measuring 0 0) = .normal ∧ slotTag (measuring 1 0) = .discharge ∧ slotTag (measuring 2 0) = .charge ∧
      slotTag (measuring 3 0) = .result ∧ (up.thresholds 0).offhookMin ≤ (calibrate (up.entryInUse 0) 0).natAbs ∧
      (calibrate (up.entryInUse 0) 2048).natAbs < (up.thresholds 0).insThreshold ∧
      (up.thresholds 0).insThreshold ≤ (calibrate (up.entryInUse 0) 2248).natAbs ∧
      (calibrate (up.entryInUse 0) 2248).natAbs < (up.thresholds 0).offhookMin := by decide +kernel
theorem witness_boundary_lines :
    (atBoundary up).rif.clock.boundaryDue = true ∧ up.rif.clock.boundaryDue = false ∧
      State.reset.supervision 31 ≠ .normal ∧ up.supervision 31 = .normal ∧
      classify (up.thresholds 31) .onhook false 0 ≠ .onhook ∧ classify (up.thresholds 31) .cut false 0 = .cut := by
  decide +kernel
theorem witness_boundary_polarity :
    (let s := up.modLine 0 (fun l => { l with settled := .offhook, filtered := -300, polarity := 24 })
     s.supervision 0 = .normal ∧ (s.line 0).drive = .normal ∧ (s.line 0).faults.wiringReversed = false ∧
       ((after .superframeBoundary (atBoundary s)).line 0).settleDue = false) ∧
    (let s := talking0.modLine 0 (fun l => { l with filtered := -300, faults := { wiringReversed := true } })
     s.supervision 0 = .normal ∧ (s.line 0).drive = .reversed ∧ (s.line 0).settled = .offhook) ∧
    up.sect.insPeriod ≠ 0 ∧ (withTables up [(544 + 13, 0)]).lsv.testPhase = .idle := by decide +kernel
theorem witness_settle :
    (settling up .onhook .short).isDue (.settle 0) = true ∧ (settling bypassed .onhook .short).isDue (.settle 0) = true ∧
      ((settling up .onhook .short).line 0).candidate = some .short ∧
      (settling bypassed .onhook .short).inBypass = true ∧ (settling up .onhook .short).inBypass = false ∧
      (settling up .onhook .offhook).isDue (.settle 0) = true ∧ (settling up .offhook .onhook).isDue (.settle 0) = true := by
  decide +kernel
/-- A line of port 0 driven NORMAL with the wrong polarity, the fault WIRING-REVERSED set or clear, and a count. -/
def crossed (s : State) (set : Bool) : State :=
  s.modLine 0 (fun l => { l with filtered := -300, polarity := 5, faults := { wiringReversed := set } })
/-- A change of CUT, SHORT or WIRING-REVERSED lists the FAULT entry outside BYPASS, and no change lists none (R22). The
check of R12 runs at a boundary that settles an OFFHOOK line, against the polarity its drive should show, and a line
that leaves OFFHOOK ends the count and the fault. -/
theorem test_settling_lists_faults_and_checks_the_polarity :
    (let t := after (.settle 0) (settling up .onhook .short)
     (t.line 0).faults = { short := true } ∧ entryOf t.sgu.reports (.fault 0) = some { key := .fault 0 }) ∧
    (let t := after (.settle 0) (settling bypassed .onhook .short)
     (t.line 0).faults = { short := true } ∧ t.sgu.reports = []) ∧
    (let t := after (.settle 0) (crossed (settling up .onhook .offhook) false)
     (t.line 0).polarity = 6 ∧ entryOf t.sgu.reports (.fault 0) = none) ∧
    ((after (.settle 0) (crossed (settling up .onhook .offhook) true)).line 0).polarity = 0 ∧
    (let t := after (.settle 0) (crossed (settling up .offhook .onhook) true)
     (t.line 0).polarity = 0 ∧ (t.line 0).faults = {} ∧
       entryOf t.sgu.reports (.fault 0) = some { key := .fault 0 }) := by decide +kernel
theorem witness_lift :
    (settling up .onhook .offhook).isDue (.settle 0) = true ∧
      ((settling up .onhook .offhook).line 0).candidate = some .offhook ∧
      ((settling up .onhook .offhook).line 0).settled = .onhook ∧ (settling up .onhook .offhook).inBypass = false ∧
      ((settling up .onhook .offhook).record 0).state = .idle ∧ (settling up .onhook .offhook).unattached = none := by
  decide +kernel
/-- Port 0, IDLE, lifts while channel 3 stands assigned and no call waits; and from each other settled state. -/
theorem witness_lift_elsewhere :
    (let s := settling (up.modChan 3 (fun _ => { state := .bound, timer := 5 })) .onhook .offhook
     s.isDue (.settle 0) = true ∧ s.unattached = some 3 ∧ s.ccl.queue = [] ∧ (s.record 0).state = .idle ∧
       s.inBypass = false) ∧
    ∀ old ∈ [LineState.unknown, .cut, .short],
      (settling up old .offhook).isDue (.settle 0) = true ∧ ((settling up old .offhook).line 0).settled ≠ .offhook := by
  decide +kernel

/-- A post with identity fitted is given the lowest FREE decoder, or a place in the wait list (R25). -/
theorem test_identity_is_asked :
    (let s := withTables (settling up .onhook .offhook) [(0, 0xE000)]
     let t := after (.settle 0) s
     let busy : State := { s with idd := { s.idd with decoders := Vector.replicate 4 (Decoder.attached 9) } }
     (s.post 0).idFitted = true ∧ (s.post 0).enabled = true ∧ s.isDue (.settle 0) = true ∧
       s.decoderOf 0 = none ∧ s.awaitsDecoder 0 = false ∧
       t.decoder 0 = { state := .hunt, port := some 0 } ∧ (t.record 0).identity = some .pending ∧
       (after (.settle 0) busy).idd.waiting = [{ port := 0, count := 0 }]) := by decide +kernel

/-- A call in a state whose line is about to settle. -/
def ending (st : CallState) (held : Bool) (old c : LineState) : State := settling (withCall st held .normal) old c
/-- The record of port 0 changed. -/
def again (s : State) (reest : Bool) (time : Nat) : State := s.modRecord 0 (fun r => { r with reest := reest, time := time })
/-- The queue and the bindings of a state are kept, and a settling of port 0 is due in it outside BYPASS. -/
def endsWell (s : State) : Prop :=
  s.isDue (.settle 0) = true ∧ s.inBypass = false ∧ (s.line 0).candidate.isSome = true ∧ s.queueKept ∧ s.bindingsKept

theorem witness_replace_waiting :
    endsWell (again (ending .waiting false .offhook .onhook) true 0) ∧
      endsWell (again (ending .waiting false .unknown .onhook) false 0) ∧ 0 < up.sect.briefLift ∧
      endsWell (again (ending .waiting false .offhook .onhook) false up.sect.briefLift) := by
  unfold endsWell State.queueKept State.bindingsKept
  exact ⟨by decide +kernel, by decide +kernel, by decide +kernel, by decide +kernel⟩
theorem witness_replace_attached :
    endsWell (ending .offered true .offhook .onhook) ∧ endsWell (again (ending .alerting true .unknown .onhook) true 0) ∧
      endsWell (ending .connected true .offhook .onhook) ∧ endsWell (ending .held true .unknown .onhook) := by
  unfold endsWell State.queueKept State.bindingsKept
  exact ⟨by decide +kernel, by decide +kernel, by decide +kernel, by decide +kernel⟩
theorem witness_replace_other :
    endsWell (ending .cleared false .offhook .onhook) ∧ endsWell (ending .parked false .offhook .onhook) ∧
      endsWell (ending .idle false .unknown .onhook) ∧ endsWell (ending .ringing true .unknown .onhook) := by
  unfold endsWell State.queueKept State.bindingsKept
  exact ⟨by decide +kernel, by decide +kernel, by decide +kernel, by decide +kernel⟩
theorem witness_fault :
    endsWell (ending .ringing true .onhook .cut) ∧ endsWell (ending .connected true .cut .short) ∧
      endsWell (ending .parked false .offhook .short) ∧ endsWell (ending .idle false .unknown .cut) := by
  unfold endsWell State.queueKept State.bindingsKept
  exact ⟨by decide +kernel, by decide +kernel, by decide +kernel, by decide +kernel⟩
theorem witness_ring_trip :
    endsWell (ending .ringing true .onhook .offhook) ∧ endsWell (ending .ringing true .unknown .offhook) ∧
      (ending .ringing true .onhook .offhook).lsv.testPort = none ∧
      ((ending .ringing true .onhook .offhook).record 0).announced = true := by
  unfold endsWell State.queueKept State.bindingsKept
  exact ⟨by decide +kernel, by decide +kernel, by decide +kernel, by decide +kernel⟩
theorem witness_full_closing_list :
    (let s := (List.range 8).foldl (fun s _ => after (.recall 0 0) s) (ending .connected true .offhook .onhook)
     s.ccl.closing.length = 8 ∧ s.ccl.closing.head?.map (fun e => decide (e.entry ≠ s.ccl.nextEntry)) = some true) := by
  decide +kernel

theorem witness_polarity :
    (let s := up.modLine 0 (fun l => { l with causes := { reversal := true } })
     (s.line 0).causes.reversal = true ∧ (s.line 0).reversal = 0) ∧
    (let s := up.modLine 0 (fun l => { l with polarity := 25 })
     (s.line 0).polarity = 25 ∧ (s.post 0).enabled = true ∧ s.inBypass = false) := by decide +kernel
theorem witness_test_phases :
    (∀ x ∈ [testing .discharge 0, testing .charge 0, testing .resultWait 2],
      x.lsv.testPort = some 0 ∧ (x.post 0).enabled = true ∧ (x.record 0).state = .idle) ∧
    (testing .discharge 0).lsv.phaseCount = 0 ∧ (testing .charge 0).lsv.phaseCount = 0 ∧
      2 ≤ (testing .resultWait 2).lsv.phaseCount := by decide +kernel

/-- A test point due, with port 31 alone to be tested. -/
def testDue : State :=
  let s := withTables up [(16 * 31, 0xA002)]
  { s with lsv := { s.lsv with testPointDue := true } }

theorem witness_tests_start :
    (testDue.lsv.testPointDue = true ∧ testDue.lsv.testPhase = .idle ∧ testDue.inBypass = false ∧
      (portsAfter testDue.lsv.pointer).find? testDue.testEligible = some 31) ∧
    ({ up with lsv := { up.lsv with testPointDue := true } }.lsv.testPointDue = true ∧
      ∀ p, up.testEligible p = false) ∧
    ((testing .charge 1).lsv.testPhase ≠ .idle ∧ (testing .charge 1).inBypass = false) ∧
    ((req 0 32 0).port = none ∧ (req 0 31 0).port = some 31 ∧ testDue.testEligible 31 = true) := by
  decide +kernel

/-- Port 0 awaiting a decoder past its window, and decoder 3 on port 1 past its own. -/
def expiring : State :=
  let s := up.modRecord 0 (fun _ => { call .waiting none with identity := some .pending })
  let s := s.modDecoder 3 (fun _ => { state := .hunt, port := some 1, window := 65535 })
  { s with idd := { s.idd with waiting := [{ port := 0, count := 65535 }] } }

theorem witness_expiries :
    expiring.isDue (.decoderWaitExpiry 0) = true ∧ (expiring.record 0).identity = some .pending ∧
      expiring.isDue (.identityWindowExpiry 3) = true ∧ (expiring.decoder 3).port = some 1 ∧
      (expiring.record 1).identity ≠ some .pending ∧ expiring.idd.waiting = [{ port := 0, count := 65535 }] := by
  decide +kernel

/-- A record announced, whose CALL entry has been SENT. -/
def announced (s : State) (p : PortNo) : State :=
  let s := s.modRecord p (fun r => { r with announced := true, identity := some .pending })
  { s with sgu := { s.sgu with reports := [{ key := .call p, status := .sent, echo := some 1 }] } }
/-- The CALL entry of port `p` is LISTED again. -/
def listedAgain (s : State) (p : PortNo) : Prop := s.sgu.reports = [{ key := .call p }]

theorem witness_outcomes_told :
    ((announced expiring 0).record 0).identity = some .pending ∧ ((announced expiring 0).record 0).announced = true ∧
      (expiring.record 0).announced = false ∧ (announced expiring 0).inBypass = false ∧
      (announced expiring 0).isDue (.decoderWaitExpiry 0) = true ∧
      (announced expiring 1).isDue (.identityWindowExpiry 3) = true ∧ ((announced expiring 1).record 1).announced = true := by
  decide +kernel
/-- Decoder 0 with a burst for port 0, which expects the code 0x123, and failures before it. -/
def burst (bits failed : Nat) : State :=
  let s := withTables up [(0, 0xC002), (1, 0x123)]
  let s := s.modRecord 0 (fun _ =>
    { call .waiting none with identity := some .pending, latched := some (s.post 0).latched })
  s.modDecoder 0 (fun _ => { state := .bits, port := some 0, index := 16, bits := bits16 bits, failed := failed })

theorem witness_bursts :
    ((burst 0x1236 0).record 0).identity = some .pending ∧ ((burst 0x1236 0).entryInUse 0).code = 0x123 ∧
      burstChecks ((burst 0x1236 0).decoder 0).bits = true ∧ burstCode (bits16 0x1236) = 0x123 ∧
      burstChecks ((burst 0x1247 0).decoder 0).bits = true ∧ burstCode (bits16 0x1247) ≠ 0x123 ∧
      burstChecks ((burst 0x1237 1).decoder 0).bits = false ∧ ((burst 0x1237 1).decoder 0).failed = 1 ∧
      ((burst 0x1237 2).decoder 0).failed = 2 := by decide +kernel
/-- An outcome on an announced record lists its CALL entry; on one not announced, and for a first failed burst, it
lists nothing (R37, R42). -/
theorem test_outcomes_list_the_call :
    listedAgain (after (.decoderWaitExpiry 0) (announced expiring 0)) 0 ∧
      listedAgain (after (.identityWindowExpiry 3) (announced expiring 1)) 1 ∧
      (after (.decoderWaitExpiry 0) expiring).sgu = expiring.sgu ∧
      listedAgain ((announced (burst 0x1236 0) 0).judgeBurst 0 0) 0 ∧
      ((announced (burst 0x1237 1) 0).judgeBurst 0 0).sgu = (announced (burst 0x1237 1) 0).sgu := by
  unfold listedAgain
  decide +kernel
/-- A decoder of port 0 in BITS with a run of a length before the bit to come. -/
def timing (ph : BitPhase) (run index : Nat) (prev : Loop) : Decoder :=
  { state := .bits, port := some 0, previous := some prev, run := run, phase := ph, index := index }

theorem witness_decoder_bits :
    up.sect.idStartMin ≤ up.sect.idStartMin ∧ up.sect.idStartMin ≤ up.sect.idStartMax ∧
      ¬ up.sect.idStartMin ≤ up.sect.idStartMin - 1 ∧ up.sect.idMakeMin ≤ up.sect.idMakeMax ∧
      ¬ up.sect.idMakeMax + 1 ≤ up.sect.idMakeMax ∧ up.sect.idZeroMin ≤ up.sect.idZeroMax ∧
      up.sect.idOneMin ≤ up.sect.idOneMax ∧
      (Decoder.take up.sect .made (timing .brk up.sect.idOneMax 15 .broken)).2 = .complete ∧
      (Decoder.take up.sect .made (timing .brk up.sect.idZeroMin 3 .broken)).1.bits = [false] ∧
      (Decoder.take up.sect .made (timing .make up.sect.idMakeMax 3 .made)).2 = .failed := by decide +kernel
theorem witness_new_reference : connected.closingKept := by unfold State.closingKept; decide +kernel

/-- An offered call, as every command on it needs it. -/
def offered : State := withCall .offered true .normal
/-- A connected call with the line driven REVERSED. -/
def talking : State := talking0
/-- A held call. -/
def holding : State := withCall .held true .reversed

theorem witness_answer :
    (offered.inBypass = false ∧ offered.portOfRef 1 = some 0 ∧ (offered.record 0).state = .offered ∧
      (offered.record 0).channel = some 0) ∧ offered.callsKept ∧ offered.bindingsKept := by
  unfold State.callsKept State.bindingsKept
  exact ⟨by decide +kernel, by decide +kernel, by decide +kernel⟩
theorem witness_hold_resume :
    (talking.inBypass = false ∧ talking.portOfRef 1 = some 0 ∧ (talking.record 0).state = .connected ∧
      (talking.record 0).channel = some 0 ∧ (talking.line 0).drive = .reversed ∧
      holding.inBypass = false ∧ holding.portOfRef 1 = some 0 ∧ (holding.record 0).state = .held ∧
      (holding.record 0).channel = some 0 ∧ (holding.line 0).drive = .reversed) ∧
      talking.callsKept ∧ holding.callsKept ∧ talking.bindingsKept ∧
        tagOf (tagged .grant 1) 0 = ⟨.grant, talking.straps⟩ := by
  unfold State.callsKept State.bindingsKept
  exact ⟨by decide +kernel, by decide +kernel, by decide +kernel, by decide +kernel, by decide +kernel⟩
theorem witness_clear :
    (talking.inBypass = false ∧ talking.portOfRef 1 = some 0 ∧ (talking.record 0).state = .connected ∧
      (talking.record 0).channel = some 0) ∧ talking.callsKept ∧ talking.bindingsKept := by
  unfold State.callsKept State.bindingsKept
  exact ⟨by decide +kernel, by decide +kernel, by decide +kernel⟩
theorem witness_stale :
    talking.inBypass = false ∧ (∀ p, (talking.record p).state = .idle ∨ (talking.record p).ref ≠ some 2) ∧
      talking.portOfRef 1 = some 0 ∧ decide ((talking.record 0).state = .held) = false ∧
      portOfByte 31 = some 31 ∧ (talking.record 31).state ≠ .ringing ∧ portOfByte 32 = none := by decide +kernel

/-- Channel 19 BOUND to no port. -/
def assigned : State := up.modChan 19 (fun _ => { state := .bound, timer := 9 })
/-- A recall that rings port 31 on channel 19. -/
def ringing : State := after (.recall 31 19) assigned

theorem witness_recall :
    assigned.inBypass = false ∧ portOfByte 31 = some 31 ∧ chanOfByte 19 = some 19 ∧
      (assigned.record 31).state = .idle ∧ (assigned.post 31).enabled = true ∧
      (assigned.line 31).settled = .onhook ∧ (assigned.chan 19).state = .bound ∧
      (assigned.chan 19).port = none ∧ (assigned.line 31).brake = false := by decide +kernel
theorem witness_recall_refusals :
    talking.ccl.closing.length < 8 ∧ portOfByte 0 = some 0 ∧ (talking.record 0).state ≠ .idle ∧
    (let s := withTables up [(16 * 31, 0)]; (s.record 31).state = .idle ∧ (s.post 31).enabled = false) ∧
    (State.reset.record 31).state = .idle ∧ (State.reset.post 31).enabled = true ∧
    (State.reset.line 31).settled ≠ .onhook ∧ chanOfByte 20 = none ∧ portOfByte 32 = none ∧
    (up.line 31).settled = .onhook ∧ (up.chan 19).state ≠ .bound := by decide +kernel
theorem witness_cancel :
    (ringing.inBypass = false ∧ portOfByte 31 = some 31 ∧ (ringing.record 31).state = .ringing ∧
      (ringing.record 31).channel = some 19 ∧ ringing.ccl.closing.length < 8) ∧
      ringing.callsKept ∧ ringing.bindingsKept := by
  unfold State.callsKept State.bindingsKept
  exact ⟨by decide +kernel, by decide +kernel, by decide +kernel⟩

/-- A waiting call whose age counter has reached age_period, in class `k`. -/
def ageing (k : Fin 4) : State :=
  (withCall .waiting false .normal).modRecord 0 (fun r => { r with effClass := some k, age := 65535 })
/-- A cleared call past its park timeout. -/
def parking : State := (withCall .cleared false .normal).modRecord 0 (fun r => { r with time := 65535 })

theorem witness_ageing_parking :
    (∀ k, (ageing k).isDue (.ageing 0) = true ∧ ((ageing k).record 0).effClass = some k ∧
      (ageing k).inBypass = false) ∧
    parking.isDue (.parkTimeout 0) = true ∧ (parking.record 0).channel = none ∧ parking.inBypass = false ∧
      parking.ccl.closing.length < 8 := by decide +kernel
theorem witness_channel_counts :
    (∀ st : ChanState, ((entry { state := st }).chan 0).timer = 0 ∧ ((entry { state := st }).chan 0).state = st ∧
      ((entry { state := st }).chan 0).port = none) ∧
    (let s := withTables (up.modVoice 0 (fun v => { v with block := 64 })) [(544 + 26, 0x6223)]
     (s.voice 0).block = 64 ∧ s.sect.agcEnable = true) ∧
    (let s := talking.modVoice 0 (fun v => { v with missing := 16, lastDown := 1 })
     (s.chan 0).state = .bound ∧ (s.chan 0).port ≠ none ∧ (s.voice 0).missing = 16 ∧ (s.voice 0).lastDown ≠ 0) :=
  ⟨fun st => by cases st <;> decide +kernel, by decide +kernel, by decide +kernel⟩
theorem witness_unattached_withdrawal :
    (let s := entry { state := .bound, withdrawDue := true }
     s.ccl.queue = [] ∧ (s.chan 0).port = none ∧
       ∀ d, d ≠ 0 → (s.chan d).state = .bound → (s.chan d).withdrawDue = false) := by decide +kernel

/-- A talking call whose channel is to be withdrawn. -/
def withdrawing : State := talking.modChan 0 (fun e => { e with mismatch := 16, withdrawDue := true })
/-- The hold at its end, with a service input or none. -/
def holdOver (i : Option RingInput) : State :=
  { talking with prc := { talking.prc with holdEndDue := true, service := i } }

theorem witness_withdrawn :
    (withdrawing.withdrawalDue = true ∧ withdrawing.unattached = none ∧
      (holdOver none).prc.holdEndDue = true ∧ (holdOver none).prc.service = none ∧
      (holdOver (some .pin)).prc.holdEndDue = true ∧ (holdOver (some .pin)).prc.service ≠ none) ∧
      withdrawing.queueKept ∧ withdrawing.bindingsKept ∧ (holdOver none).queueKept ∧
      (holdOver none).bindingsKept := by
  unfold State.queueKept State.bindingsKept
  exact ⟨by decide +kernel, by decide +kernel, by decide +kernel, by decide +kernel, by decide +kernel⟩
/-- The closing list full of refused recalls; the call of port 0 and the recall that rings port 31 lose their
channels. -/
def losing : State :=
  let s := (List.range 8).foldl (fun s _ => after (.recall 0 0) s) (talking.modChan 19 (fun _ => { state := .bound }))
  let s := (after (.recall 31 19) s).modChan 0 (fun e => { e with withdrawDue := true })
  s.modChan 19 (fun e => { e with withdrawDue := true })

theorem witness_withdrawn_closes :
    losing.withdrawalDue = true ∧ losing.unattached = none ∧ losing.inBypass = false ∧
      losing.ccl.closing.length = 8 ∧ (losing.record 31).state = .ringing ∧
      losing.loses (fun e => e.withdrawDue) 31 = true ∧ (losing.record 0).announced = true ∧
      losing.loses (fun e => e.withdrawDue) 0 = true ∧ losing.closingKept ∧ losing.closingsNumbered ∧
      losing.queueKept ∧ losing.bindingsKept := by
  unfold State.closingKept State.closingsNumbered State.queueKept State.bindingsKept
  decide +kernel
/-- A RINGING call that loses its channel is closed with CHANNEL-LOST, its CLOSE entry listed; of the full closing list
the oldest entry is lost; the other call waits again and its CALL entry is listed (R42, R43, R60, R73). -/
theorem test_a_lost_channel_closes_the_recall :
    ∀ c ∈ [Instr.withdrawal, .switchoverHoldEnd],
      let s : State := { losing with prc := { losing.prc with holdEndDue := true, service := none } }
      let t := after c s
      t.ccl.closing = s.ccl.closing.drop 1 ++ [s.closingEntry 8 31 .channelLost] ∧
        entryOf t.sgu.reports (.close 8) = some { key := .close 8 } ∧ entryOf t.sgu.reports (.close 0) = none ∧
        entryOf t.sgu.reports (.call 31) = none ∧ entryOf t.sgu.reports (.call 0) = some { key := .call 0 } ∧
        t.record 31 = s.closedRecord 31 none ∧ (t.record 0).state = .waiting ∧ t.ccl.queue = [0] ∧
        t.count .closesLost = 1 ∧ t.count .withdrawals = 2 := by decide +kernel
theorem witness_tags :
    tagOf (tagged .grant 1) 0 = ⟨.grant, up.straps⟩ ∧ tagOf (tagged .claim 1) 0 = ⟨.claim, up.straps⟩ ∧
      tagOf (tagged .free 0) 0 = ⟨.free, 0⟩ ∧ tagOf (tagged .blocked 0) 0 = ⟨.blocked, 0⟩ ∧
      tagOf (tagged .grant 2) 0 = ⟨.grant, 2⟩ ∧ up.prc.hold = 0 ∧
      ({ up with prc := { up.prc with hold := 1 } } : State).prc.hold = 1 ∧
      ((entry { state := .releasing }).chan 0).state = .releasing ∧
      ((entry { state := .bound }).chan 0).state = .bound ∧
      ((entry { state := .claimed }).chan 0).state = .claimed := by decide +kernel

/-- A state whose report list holds one entry, SENT, with the echo of its report. -/
def sent (s : State) (k : EntryKey) : State :=
  { s with sgu := { s.sgu with reports := [{ key := k, status := .sent, echo := (s.compose k).map Prod.snd }] } }
/-- A CLAIM or a RELEASE with this node's number on a NONE entry passes with the entry and the frame unchanged, is
counted, and sets NUMBER-CONFLICT with its listing once; in BYPASS it is counted alone (R65, R97). -/
theorem test_a_conflict_is_flagged_once :
    ∀ k ∈ [TagKind.claim, .release],
      let r := applyTag (tagged k 1) (sent up .node, active) 0
      let again := applyTag (tagged k 1) (sent r.1 .node, active) 0
      let held := applyTag (tagged k 1) (bypassed, active) 0
      r.2 = active ∧ r.1.cha = up.cha ∧ r.1.sgu.flags = { up.sgu.flags with numberConflict := true } ∧
        r.1.sgu.reports = [{ key := .node }] ∧ r.1.count .numberConflicts = 1 ∧
        again.1.sgu = (sent r.1 .node).sgu ∧ again.1.count .numberConflicts = 2 ∧
        held.1.sgu = bypassed.sgu ∧ held.1.count .numberConflicts = 1 := by decide +kernel

/-- A call waits, and channel 0 has an entry. -/
def waitingWith (e : ChanEntry) : State := (withCall .waiting false .normal).modChan 0 (fun _ => e)

theorem witness_claims :
    ((entry { state := .claimed }).ccl.queue = [] ∧ (waitingWith { state := .claimed }).ccl.queue.head? = some 0 ∧
      ((waitingWith {}).record 0).state = .waiting ∧ (waitingWith {}).unattached = none ∧
      (waitingWith {}).heldChannels < min (waitingWith {}).sect.quota 8 ∧
      min (withTables up [(544 + 26, 0)]).sect.quota 8 ≤ (withTables up [(544 + 26, 0)]).heldChannels) ∧
    (let s := waitingWith {}
     let u := (allChans.foldl (exchangeVoice active) (allChans.foldl (applyTag active) (s, active))).1
     u.ccl.queue ≠ [] ∧ (∀ c, (u.chan c).state ≠ .claimed) ∧ u.unattached = none ∧
       u.heldChannels < min u.sect.quota 8 ∧ u.cha.holdoff = 0 ∧ u.prc.hold = 0 ∧
       (tagOf active 0).kind = .free ∧ (s.chan 0).state = .none ∧ (u.chan 0).state = .none) := by decide +kernel

/-- A node with one closing entry. -/
def closed : State := after (.recall 0 0) talking

theorem witness_acks :
    (sent talking (.fault 0)).echoes (.fault 0) 0 = true ∧ (sent talking .node).echoes .node 1 = true ∧
    (closed.ccl.closing.map (fun e => (e.port, e.ref, e.entry))) = [(0, none, 0)] ∧
    (sent closed (.close 0)).echoes (.close 0) 11 = true ∧
    (sent talking (.call 0)).echoes (.call 0) 4 = true ∧ (talking.record 0).ref = some 1 ∧
    (sent offered (.call 0)).echoes (.call 0) 2 = true ∧ (offered.record 0).announced = true ∧
    ackFields 4 32 = true ∧ up.ackMatch 4 none 0 9 = none ∧ ackFields 3 31 = true ∧ ackFields 3 32 = false ∧
    ackFields 0 0 = false ∧ ackFields 5 0 = false ∧ up.inBypass = false ∧
    (sent talking (.fault 0)).echoes (.fault 0) 0x80 = true ∧ (sent talking .node).echoes .node 0xF9 = true ∧
    (sent talking (.call 0)).echoes (.call 0) 0x84 = false := by decide +kernel

/-- A good frame stored, with part 0 of an EMPTY cell and the start of an EMPTY message, and a reply held. -/
def writing : State :=
  { stored with
    sgu := { stored.sgu with role := .report, cell := 1, nextPart := 1, emptyCell := some .pin },
    rif := { stored.rif with pout := { frame := some active, source := some .pin, left := 736 } },
    mga := { stored.mga with emptyStart := some .pin, buffer := some (Vector.replicate 32 9) } }

theorem witness_writes :
    ((writing.input .pin).lastClass = .good ∧ (writing.input .pin).store = some active ∧
      writing.sgu.emptyCell = some .pin ∧ writing.sgu.role = .report ∧ writing.sgu.report = none ∧
      writing.sgu.nextPart = 1 ∧ writing.sgu.cell ≠ 0 ∧ (writing.out .pout).source = some .pin ∧
      writing.sgu.cellsTaken < min (if writing.sect.cellShare = 0 then 1 else writing.sect.cellShare) 4 ∧
      writing.sgu.reports.find? (fun e => decide (e.status = .listed)) = some { key := .node } ∧
      (writing.compose .node).isSome = true ∧ writing.mga.emptyStart = some .pin ∧
      writing.mga.buffer = some (Vector.replicate 32 9) ∧ writing.mga.writing = none) ∧ writing.reportsKept ∧
    (∃ e, entryOf (sent up .node).sgu.reports .node = some e ∧ e.status = .sent ∧ e.timer = 0) := by
  unfold State.reportsKept
  exact ⟨by decide +kernel, by decide +kernel, ⟨_, rfl, rfl, rfl⟩⟩

/-- The last part of a consumed ANSWER cell, awaited. -/
def consuming : State :=
  { up with sgu := { up.sgu with
      role := .consume, cell := 1, nextPart := 3, command := [0x42, 1, 1, 0, 0, 0, 0, 0, 0] } }
/-- A whole request to this node, but for its last part. -/
def assembling : State :=
  { up with mga := { up.mga with
      assembly := { next := 15, bytes := [1, 1, 1] ++ List.replicate 27 0, spoiled := false } } }

/-- GRANT(self) on a channel attached to a port, and an entry that is BOUND to none. -/
theorem witness_voice_exchange :
    (talking.chan 0).state = .bound ∧ (talking.chan 0).port = some 0 ∧
      (tagOf (putTag active 0 ⟨.grant, 1⟩) 0).kind = .grant ∧
      (tagOf (putTag active 0 ⟨.grant, 1⟩) 0).node = talking.straps ∧ -8191 ≤ talking.vcn.uplink[(0 : PortNo)] ∧
      talking.vcn.uplink[(0 : PortNo)] ≤ 8191 ∧ (assigned.chan 19).state = .bound ∧
      (assigned.chan 19).port = none := by decide +kernel

theorem witness_commands_and_requests :
    (let f := putByte (putByte (putByte active 2 4) 85 0x42) 86 1
     cellKind (byteAt f 85) = .command ∧ byteAt f 86 = up.straps.zeroExtend 8 ∧ frameNumber f % 4 = 0 ∧
       cellKind (byteAt (putByte active 85 0x84) 85) ≠ .empty) ∧
    (let f := putByte active 2 7
     consuming.sgu.role = .consume ∧ frameNumber f = 4 * consuming.sgu.cell + consuming.sgu.nextPart ∧
       frameNumber f % 4 ≠ 0 ∧ consuming.sgu.spoiled = false ∧
       (decodeCommand (cellOfList (consuming.sgu.command ++ signalOf f))).isSome = true) ∧
    (let f := putByte active 2 15
     let a := assembling.mga.assembly
     let l := a.bytes ++ mgmtOf f
     frameNumber f = a.next ∧ a.spoiled = false ∧ assembling.mga.writing = none ∧ l.getD 0 0 = 1 ∧
       l.getD 1 0 = assembling.straps.zeroExtend 8 ∧ 2 ≤ l.length) := by decide +kernel

theorem witness_cells :
    cellKind (byteAt active 85) = .empty ∧ up.sgu.cellsTaken < min (if up.sect.cellShare = 0 then 1 else up.sect.cellShare) 4 ∧
      (up.sgu.reports.any (fun e => e.status = .listed)) = true ∧ bypassed.sgu.reports = [] ∧
      (∃ e, entryOf (sent talking (.call 0)).sgu.reports (.call 0) = some e ∧ e.status = .sent ∧ e.timer = 0) :=
  ⟨by decide +kernel, by decide +kernel, by decide +kernel, by decide +kernel, ⟨_, rfl, rfl, rfl⟩⟩

/-- A cell taken for a report of which part `n` is awaited, and a reply in writing whose part `n` is. -/
def midway (n : Nat) : State :=
  { up with
    sgu := { up.sgu with role := .report, cell := 1, nextPart := n, report := some (Vector.replicate 12 7) },
    mga := { up.mga with writing := some { reply := Vector.replicate 32 9, next := n } } }

theorem witness_later_parts :
    frameNumber active = 4 * (midway 1).sgu.cell + (midway 1).sgu.nextPart ∧
      (midway 3).sgu.nextPart = 3 ∧ frameNumber active ≠ 4 * (midway 3).sgu.cell + (midway 3).sgu.nextPart ∧
      (midway 5).mga.writing = some { reply := Vector.replicate 32 9, next := frameNumber active } ∧
      (midway 3).rif.processed = false ∧ (midway 1).sgu.role = .report ∧ consuming.rif.processed = false := by
  decide +kernel
/-- A report's parts go on in order; a part that comes out of it, or a frame time without one, spoils the report; a
reply's next part is written, and a field out of order ends it (R82, R90, R168). -/
theorem test_later_parts :
    ((midway 1).sguFrame .pin active).2 = putSignal active (Vector.replicate 12 7) 1 ∧
      ((midway 1).sguFrame .pin active).1.sgu.nextPart = 2 ∧ ((midway 3).sguFrame .pin active).2 = active ∧
      ((midway 3).sguFrame .pin active).1.count .reportsSpoiled = 1 ∧
      (after .nodeFrameTime (midway 3)).count .reportsSpoiled = 1 ∧
      (after .nodeFrameTime (midway 1)).sgu.spoiled = true ∧
      ((midway 5).mgaFrame .pin active active).2 = putMgmt active (Vector.replicate 32 9) 5 ∧
      ((midway 4).mgaFrame .pin active active).1.count .repliesSpoiled = 1 := by decide +kernel

/-- A cell being consumed, a request part assembled and a reply in writing, with a reply held behind it. -/
def streaming : State :=
  { consuming with
    sgu := { consuming.sgu with dueCommand := some (.answer 1) },
    mga := { (midway 5).mga with assembly := assembling.mga.assembly, buffer := some (Vector.replicate 32 3) } }
/-- An input about to go down. -/
def failing (s : State) (i : RingInput) : State := s.modHealth i (fun h => { h with miss := 8, downDue := true })

theorem witness_cut_off :
    consuming.sgu.role = .consume ∧ consuming.sgu.nextPart = 3 ∧
      (let f := putByte active 2 6
       frameNumber f % 4 ≠ 0 ∧ frameNumber f ≠ 4 * consuming.sgu.cell + consuming.sgu.nextPart) ∧
      frameNumber (putByte active 2 8) % 4 = 0 ∧ (midway 2).sgu.role = .report ∧ (midway 2).sgu.report ≠ none ∧
      writing.sgu.role = .report ∧ writing.sgu.report = none ∧ streaming.inBypass = false ∧
      (∀ p, (streaming.record p).state = .idle) ∧ (failing streaming .pin).protKept := by
  unfold State.protKept
  decide +kernel
/-- A CONSUME cell that misses a part goes on spoiled and counts at its end; a part 0 ends the cell before it, which
counts; a REPORT cell with none composed does not (R82, R84, R90). -/
theorem test_cells_are_cut_off :
    (let early : State := { consuming with sgu := { consuming.sgu with nextPart := 1 } }
     let s := (early.sguFrame .pin (putByte active 2 6)).1
     let t := (consuming.sguFrame .pin (putByte active 2 6)).1
     s.sgu.spoiled = true ∧ s.sgu.nextPart = 2 ∧ s.sgu.role = .consume ∧ s.count .badCommands = 0 ∧
       t.sgu.role = .none ∧ t.sgu.dueCommand = none ∧ t.count .badCommands = 1) ∧
    (let f := putByte (putByte active 2 8) 85 0x84
     (consuming.sguFrame .pin f).1.count .badCommands = 1 ∧ (consuming.sguFrame .pin f).1.sgu.role = .pass ∧
       ((midway 2).sguFrame .pin f).1.count .reportsSpoiled = 1 ∧
       (writing.sguFrame .pin f).1.count .reportsSpoiled = 0) := by decide +kernel
/-- A change of service input cuts the cell, the request and the reply in writing; one that leaves it where it is cuts
nothing (R82, R166, R168). -/
theorem test_a_new_service_input_cuts_the_streams :
    (let t := after (.inputDown .pin) (failing streaming .pin)
     t.prc.service = some .sin ∧ t.sgu.role = .none ∧ t.sgu.command = [] ∧ t.count .badCommands = 1 ∧
       t.mga.assembly = { next := 0, bytes := [], spoiled := false } ∧ t.mga.writing = none ∧ t.count .messagesSpoiled = 1 ∧ t.count .repliesSpoiled = 1 ∧
       t.mga.buffer = streaming.mga.buffer ∧ t.sgu.dueCommand = some (.answer 1)) ∧
    (let t := after (.inputDown .sin) (failing streaming .sin)
     t.prc.service = some .pin ∧ t.prc.state = .wrapB ∧ t.sgu.role = .consume ∧ t.mga = streaming.mga) ∧
    (let t := after (.bypass (req 0 0 0)) streaming
     t.sgu.role = .none ∧ t.sgu.dueCommand = none ∧ t.sgu.nextPart = 0 ∧ t.sgu.cell = 1 ∧
       t.count .badCommands = 1 ∧ t.count .messagesSpoiled = 1 ∧ t.count .repliesSpoiled = 1) := by decide +kernel

/-- Port 0 playing a cadence of the tables in force, at the end of a phase. -/
def playing (role : CadenceRole) (n step : Nat) (ph : CadencePhase) (left : Nat) : State :=
  up.modCadence 0 (fun _ =>
    { role := role, copy := some (up.tbs.active.cadence n), step := step, phase := ph, remaining := 0,
      repeatsLeft := left })

theorem witness_cadence_steps :
    (up.tbs.active.cadence 1).played = [⟨200, 100⟩, ⟨200, 1000⟩] ∧
      (up.tbs.active.cadence 4).played = [⟨500, 1000⟩] ∧ (up.tbs.active.cadence 4).repeats = 20 ∧
      (up.tbs.active.cadence 1).repeats = 0 ∧ up.sect.selection .ringback = 1 ∧
      ((playing .ringback 1 0 .on 0).cadence 0).remaining = 0 ∧
      ((playing .ringback 1 1 .off 0).cadence 0).phase = .off ∧
      ((playing .clear 4 0 .off 1).cadence 0).repeatsLeft ≤ 1 := by decide +kernel
theorem witness_ring_runs_out :
    (let s := ringing.modCadence 31 (fun c => { c with phase := .off, remaining := 0, repeatsLeft := 1 })
     (s.cadence 31).role = .ring ∧ (s.record 31).state = .ringing ∧ (s.cadence 31).copy.isSome = true ∧
       s.ccl.closing.length < 8) := by decide +kernel
/-- A recall whose ring cadence has two steps, at the end of the first. -/
def ringingOn (l : List (Nat × Word)) (ph : CadencePhase) : State :=
  (after (.recall 31 19) (withTables assigned ((544 + 31, 1) :: l))).modCadence 31
    (fun c => { c with phase := ph, remaining := 0, step := 0 })

theorem witness_ring_steps :
    (let s := ringingOn [] .off
     (s.cadence 31).role = .ring ∧ (s.cadence 31).copy = some (s.tbs.active.cadence 1) ∧
       (s.tbs.active.cadence 1).played = [⟨200, 100⟩, ⟨200, 1000⟩] ∧ (s.record 31).state = .ringing ∧
       (s.post 31).enabled = true ∧ s.lsv.testPort ≠ some 31 ∧ (s.line 31).drive ≠ .reversed ∧
       s.ccl.closing.length < 8 ∧ (s.line 31).brake = false ∧ s.sect.ringAutoRestart = true) ∧
    ((ringingOn [] .on).cadence 31).phase = .on ∧
    (let s := (ringingOn [(544 + 26, 0x6221)] .off).modLine 31 (fun l => { l with brake := true })
     s.sect.ringAutoRestart = false ∧ (s.line 31).brake = true) := by decide +kernel
/-- The default ring cadence has one step, so that its off phase ends a pass; an entry of two steps whose second
has no on phase enters an off step. -/
theorem witness_ring_passes :
    (let s := ringing.modCadence 31 (fun c => { c with phase := .off, remaining := 0 })
     (s.cadence 31).copy = some (s.tbs.active.cadence (s.sect.selection .ring)) ∧ (s.cadence 31).role = .ring ∧
       (s.tbs.active.cadence (s.sect.selection .ring)).played = [⟨500, 1000⟩] ∧ (s.cadence 31).step = 0 ∧
       1 < (s.cadence 31).repeatsLeft ∧ (s.post 31).enabled = true ∧ s.lsv.testPort ≠ some 31 ∧
       (s.line 31).drive ≠ .reversed ∧ s.ccl.closing.length < 8 ∧ (s.record 31).state = .ringing) ∧
    (let s := ringingOn [(576 + 12 + 3, 0)] .off
     (s.tbs.active.cadence 1).played = [⟨200, 100⟩, ⟨0, 1000⟩] ∧ (s.record 31).state = .ringing ∧
       (s.cadence 31).copy = some (s.tbs.active.cadence 1) ∧ (s.cadence 31).step = 0) := by decide +kernel
theorem witness_relatch :
    (let s := withTables (playing .ringback 1 1 .off 0) [(544 + 30, 0x4444)]
     (s.cadence 0).copy = some (up.tbs.active.cadence 1) ∧
       s.tbs.active.cadence (s.sect.selection .ringback) ≠ up.tbs.active.cadence 1 ∧
       (s.tbs.active.cadence (s.sect.selection .ringback)).played = [⟨500, 1000⟩]) := by decide +kernel

/-- The bytes of an ACTIVE frame. -/
def bytes : List Byte := active.toList

theorem witness_frame_times :
    (up.input .pin).found darkLine = none ∧ (stored.input .pin).found ⟨1, bytes⟩ = none ∧
      (stored.input .pin).found ⟨0, bytes⟩ = some active ∧ (up.input .pin).found ⟨0, bytes⟩ = some active ∧
      (up.input .pin).restart ⟨735, bytes⟩ = some (1471, bytes) ∧ (up.input .pin).restart darkLine = none ∧
      (up.input .pin).rx = .search ∧ (up.input .pin).restart ⟨736, bytes⟩ = none ∧
      checks active = true ∧ checks (putByte active 50 1) = false := by decide +kernel
/-- A mark within the bytes of a frame time is found by SEARCH, by the SEARCH that follows a TRACK, and where it joins
two frame times; the frame that begins there is the next frame time's. -/
theorem test_search_looks_at_every_position :
    (let x := (up.input .pin).frameTime ⟨0, List.replicate 91 0 ++ bytes⟩
     x.rx = .track ∧ x.timing = 728 ∧ x.found darkLine = some active) ∧
    (let x := (stored.input .pin).frameTime ⟨0, List.replicate 40 0 ++ bytes.take 52⟩
     x.lastClass = .lost ∧ x.rx = .track ∧ x.timing = 320 ∧
       (let y := x.frameTime ⟨416, bytes.drop 52⟩
        y.lastClass = .good ∧ y.store = some active ∧ y.timing = 320) ∧
       (x.frameTime darkLine).lastClass = .bad) ∧
    (let x := (up.input .pin).frameTime ⟨0, List.replicate 91 0 ++ [0xB6]⟩
     let y := x.frameTime ⟨0, bytes.drop 1⟩
     x.restart ⟨0, bytes.drop 1⟩ = some (728, bytes) ∧ y.timing = 728 ∧ y.since = 8) := by decide +kernel
/-- The frame time of the reference that TRACK loses, with a mark `n` bytes behind its start, and the rest of the frame
which begins there. -/
def lostTo (n : Nat) : Instr := .inputFrameTime .pin (some ⟨0, List.replicate n 0 ++ bytes.take (92 - n)⟩)
def restOf (n : Nat) : Instr := .inputFrameTime .pin (some ⟨8 * (92 - n), bytes.drop (92 - n)⟩)
/-- A node frame time and a frame on POUT that began with the frame time of PIN now running, in TRACK. -/
def tracking : State :=
  { stored with rif := { stored.rif with
      pout := { frame := some (fillFrame 4 9), left := 736 },
      clock := { stored.rif.clock with number := 4, superframe := 9, age := 0 } } }
theorem witness_restart :
    (tracking.input .pin).rx = .track ∧ (tracking.input .pin).seen = [] ∧
      (tracking.input .pin).restart ⟨0, List.replicate 40 0 ++ bytes.take 52⟩ = some (1056, bytes.take 52) ∧
      (let x := (after (lostTo 40) tracking).input .pin
       x.rx = .track ∧ x.seen ≠ [] ∧ x.seenAt = 736 ∧ markAt x.seen 0 = true ∧ 416 = 8 * x.seen.length) := by
  decide +kernel
/-- A mark that follows a missed one moves the timing there: the output sends no fill frame by the old timing, and the
frame found leaves when the next is due by the new (R120, R126). The clock realigns at the mark, which ends the node
frame time that is half a frame time old there; else the end of the frame does (R130). -/
theorem test_a_missed_mark_moves_the_timing :
    (let s := after (lostTo 40) tracking
     let t := after (restOf 40) s
     s.outFrame .pout = some (fillFrame 4 9) ∧ (s.out .pout).left = 416 ∧ s.count .lostFramesPin = 1 ∧
       s.rif.clock.timing = 320 ∧ s.count .slips = 1 ∧ s.rif.ended = none ∧
       t.outFrame .pout = (t.input .pin).store ∧ (t.input .pin).lastClass = .good ∧ (t.out .pout).left = 736 ∧
       t.count .fillFramesPout = 0 ∧ t.rif.ended = some .pin ∧ t.rif.clock.age = 1056 ∧ t.count .slips = 1) ∧
    (let s := after (lostTo 46) tracking
     let t := after (restOf 46) (after .nodeFrameTime s)
     s.rif.ended = some .pin ∧ s.rif.clock.age = 368 ∧ (after .nodeFrameTime s).rif.clock.number = 5 ∧
       t.rif.ended = some .pin ∧ t.rif.clock.age = 736 ∧ t.outFrame .pout = (t.input .pin).store ∧
       t.count .framesProcessed = 1 ∧ t.count .slips = 1) := by
  decide +kernel
/-- A frame time of an input, the reference's, has ended that begins a node frame time. -/
def endedOn (i : RingInput) : State := { stored with rif := { stored.rif with ended := some i } }
theorem witness_forwarding :
    up.prc.state.route .pout = .straight .pin ∧ markerOf active = .active ∧ up.prc.service = some .pin ∧
      up.inBypass = false ∧ markerOf (fillFrame 5 9) ≠ .active ∧ checks (fillFrame 5 9) = true ∧
      ProtState.wrapB.route .sout = .turned .pin ∧ ProtState.isolated.route .pout = .fill ∧ bypassed.inBypass = true ∧
      (State.powerOn 0).prc.cause = some .straps ∧ (up.out .pout).left = 0 ∧
      (writing.out .pout).source = some .pin ∧ 0 < (writing.out .pout).left ∧
      stored.untilNode = 736 ∧ (endedOn .pin).untilNode = 0 ∧ 0 < (writing.out .pout).left := by decide +kernel
/-- A node whose frame time now running, of the age given, spans a realignment. -/
def spanning (age : Nat) : State :=
  { up with rif := { up.rif with
      pinPort := { up.rif.pinPort with since := 736 },
      clock := { up.rif.clock with number := 5, superframe := 9, age := age, spanning := true } } }
theorem witness_reference_moves :
    (spanning 367).rif.clock.reference = some .pin ∧ (spanning 367).rif.clock.spanning = true ∧
      ((spanning 367).input .pin).since = 736 ∧
    ((after (.inputFrameTime .pin (some ⟨300, bytes⟩)) up).input .pin).timing ≠ up.rif.clock.timing ∧
    up.rif.clock.spanning = false := by decide +kernel
/-- A node frame time of the age given, its reference in SEARCH one frame time after its last end. -/
def searching (age : Nat) : State :=
  { up with rif := { up.rif with clock := { up.rif.clock with number := 5, superframe := 9, age := age } } }
/-- A mark that SEARCH finds on an input, `n` bit times behind its expected point, with the frame that begins there, and
the frame time of that frame, given whole already. -/
def markOn (i : RingInput) (n : Nat) : Instr := .inputFrameTime i (some ⟨n, bytes⟩)
def frameOf (i : RingInput) : Instr := .inputFrameTime i none
theorem witness_late_mark :
    (up.input .pin).restart ⟨368, bytes⟩ = some (1104, bytes) ∧ (up.input .pin).rx = .search ∧
      (let y : Arrival := ⟨300, List.replicate 92 0⟩
       y.shift + 8 * 54 < 736 ∧ 736 ≤ y.shift + 8 * 55 ∧ 55 < y.bytes.length) ∧
      (searching 0).rif.clock.reference = some .pin ∧ ((searching 0).input .pin).since = 0 ∧
      ((after (markOn .pin 368) (searching 0)).input .pin).since = 0 ∧
      (searching 0).prc.state.route .pout = .straight .pin ∧ ((searching 0).out .pout).left ≤ 368 := by
  decide +kernel
/-- SEARCH moves the timing at the mark, with TRACK and no class (R120, R121). A mark half a frame time or more into the
node frame time ends it there, and the one that begins, with stepped numbers, is half over or more when the frame ends
it; a mark found sooner leaves the one running to last until the frame ends (R128, R130). -/
theorem test_a_late_mark_ends_the_node_frame_time :
    (let s := after (markOn .pin 368) (searching 0)
     let t := after (frameOf .pin) (after .nodeFrameTime s)
     (s.input .pin).rx = .track ∧ (s.input .pin).timing = 368 ∧ s.count .lostFramesPin = 0 ∧
       s.health .pin = (searching 0).health .pin ∧ s.count .slips = 1 ∧ s.rif.ended = some .pin ∧
       s.rif.clock.age = 368 ∧ (after .nodeFrameTime s).rif.clock.number = 6 ∧
       t.rif.clock.age = 736 ∧ t.rif.ended = some .pin ∧ (t.input .pin).lastClass = .good ∧
       t.count .framesProcessed = 1 ∧ t.count .slips = 1 ∧ (after .nodeFrameTime t).rif.clock.number = 5) ∧
    (let s := after (markOn .pin 367) (searching 0)
     let t := after (frameOf .pin) s
     s.rif.ended = none ∧ s.untilNode = 736 ∧ t.rif.clock.number = 5 ∧ t.rif.clock.age = 1103 ∧
       t.rif.ended = some .pin ∧ t.count .slips = 1) := by
  decide +kernel
/-- The boundary of a node frame time numbered 0 that begins at a mark stands before the frame found (R120, R128). -/
theorem test_the_boundary_at_a_mark_comes_before_the_frame :
    (let s := searching 0
     let s : State := { s with rif := { s.rif with clock := { s.rif.clock with number := 15 } } }
     let t := after .nodeFrameTime (after (markOn .pin 400) s)
     t.rif.clock.number = 0 ∧ t.rif.clock.boundaryDue = true ∧ t.count .framesProcessed = 0 ∧
       (let u := after (frameOf .pin) (after .superframeBoundary t)
        u.rif.clock.boundaryDue = false ∧ u.ccl.superframes = s.ccl.superframes + 1 ∧
          u.count .framesProcessed = 1)) := by decide +kernel
/-- A service input named between the mark that moves its timing and the frame found there realigns the clock once, to
the moved timing (R120, R130). -/
theorem test_naming_after_the_mark_slips_once :
    (let s := (searching 0).modHealth .pin (fun h => { h with miss := 7 })
     let t := after (.inputDown .pin) (after (.inputFrameTime .pin none) (after (markOn .sin 500) s))
     let u := after .nodeFrameTime t
     let v := after (frameOf .sin) u
     t.prc.service = some .sin ∧ t.rif.ended = some .pin ∧ u.rif.clock.timing = 500 ∧ u.count .slips = 1 ∧
       v.rif.clock.age = 500 ∧ v.rif.ended = some .sin ∧ v.rif.clock.timing = 500 ∧ v.count .slips = 1 ∧
       v.count .framesProcessed = 1) := by decide +kernel
/-- WRAP_A, served on SIN in SEARCH, with fill frames begun on both outputs at the start of the node frame time. -/
def wrapped : State :=
  let s := searching 0
  { s with
    rif := { s.rif with
      pout := { frame := some (fillFrame 5 9), left := 736 }, sout := { frame := some (fillFrame 5 9), left := 736 },
      clock := { s.rif.clock with reference := some .sin } },
    prc := { s.prc with state := .wrapA, service := some .sin } }
/-- Across a mark found late the outputs on the node frame clock begin no frame before the one they send is complete,
whatever ends on the other input meanwhile, and the turned-back route then sends the frame found (R126). -/
theorem test_a_late_mark_overlaps_no_frame :
    (let s := after .nodeFrameTime (after (markOn .sin 500) wrapped)
     let t := after (.inputFrameTime .pin none) s
     let u := after .nodeFrameTime (after (frameOf .sin) t)
     (s.out .pout).left = 236 ∧ (s.out .sout).left = 236 ∧ s.count .fillFramesPout = 0 ∧
       (t.out .pout).left = 0 ∧ t.outFrame .pout = some (fillFrame 5 9) ∧ t.count .fillFramesPout = 0 ∧
       t.count .fillFramesSout = 0 ∧ u.outFrame .pout = ((u.input .sin).store.map turnBack) ∧
       (u.input .sin).lastClass = .good ∧ (u.out .pout).left = 736 ∧ u.count .fillFramesPout = 0 ∧
       u.count .fillFramesSout = 1) := by decide +kernel
/-- A mark found at the end of one frame time and the start of the next lies behind: the timing moves back to it, the
node frame time goes on, and a slot of the straight route that has passed begins no frame (R120, R126, R130). -/
theorem test_a_mark_across_two_frame_times :
    (let s := after (.inputFrameTime .pin (some ⟨0, List.replicate 91 0 ++ [0xB6]⟩)) (searching 0)
     let t := after (.inputFrameTime .pin (some ⟨0, bytes.drop 1⟩)) (after .nodeFrameTime s)
     s.count .lostFramesPin = 1 ∧ t.count .lostFramesPin = 1 ∧ (t.input .pin).since = 8 ∧ t.rif.clock.age = 0 ∧
       t.rif.ended = none ∧ t.untilNode = 728 ∧ t.count .slips = 1 ∧ (t.out .pout).left = 736 ∧
       (after (frameOf .pin) t).rif.clock.age = 728 ∧ (after (frameOf .pin) t).rif.ended = some .pin ∧
       ((after (frameOf .pin) t).out .pout).left = 8) := by decide +kernel
/-- A fill frame in a slot of the reference is numbered one higher where the next node frame time begins at that
slot, which across a realignment it does no sooner than half a frame time after the one running began (R127, R130). -/
theorem test_fill_numbers_across_a_realignment :
    (after (.inputFrameTime .pin none) (spanning 367)).outFrame .pout = some (fillFrame 5 9) ∧
    (after (.inputFrameTime .pin none) (spanning 368)).outFrame .pout = some (fillFrame 6 9) := by decide +kernel
/-- A downlink frame of RUNNING repeats the samples of the one before across a realignment, though the highway has
been restarted since it was composed; one of RESTARTING keeps its zeros (R147). -/
theorem test_realignment_repeats_the_samples :
    (let s := after .nodeFrameTime { up with hwc := { up.hwc with lastVoice := Vector.replicate 32 7 } }
     let s : State := { s with hwc := { s.hwc with lastVoice := Vector.replicate 32 7 } }
     ((s.startRestart.realign 300).hwc.downlink.map Downlink.voice) = some (Vector.replicate 32 7)) ∧
    (let s := after .nodeFrameTime State.reset
     let s : State := { s with hwc := { s.hwc with lastVoice := Vector.replicate 32 7 } }
     ((s.realign 300).hwc.downlink.map Downlink.voice) = some (Vector.replicate 32 0)) := by decide +kernel
/-- A route that changes while a frame is being sent begins no other frame before it is complete. -/
theorem test_no_frame_is_cut_short :
    (let s := after (.inputFrameTime .pin (some ⟨0, bytes⟩)) up
     let t : State := { s with prc := { s.prc with state := .isolated } }
     t.outFrame .pout = some active ∧ (after .nodeFrameTime t).outFrame .pout = some active ∧
       (after .nodeFrameTime t).outFrame .sout = some (fillFrame 5 9) ∧
       (after .nodeFrameTime (after .nodeFrameTime t)).outFrame .pout = some (fillFrame 6 9)) := by decide +kernel
theorem witness_node_frame_times :
    (let s := endedOn .pin
     s.rif.clock.started = true ∧ s.prc.service ≠ none ∧ s.rif.clock.reference = some .pin ∧
       s.rif.ended = some .pin ∧ s.rif.fieldSeen = false ∧ (s.input .pin).lastClass = .good ∧ (s.input .pin).store = some active) ∧
    State.reset.prc.service = none ∧ State.reset.rif.clock.reference = none ∧
      State.reset.rif.clock.started = false ∧ stored.rif.ended = none ∧ stored.rif.clock.started = true ∧
      (after (.inputFrameTime .pin (some ⟨0, bytes⟩)) up).rif.fieldSeen = true := by decide +kernel
/-- A message of two superframes is not taken: the frame times without a field spoil it (R166). -/
theorem test_a_missed_field_spoils_the_message :
    (let s := after .nodeFrameTime assembling
     let f := putByte active 2 15
     assembling.rif.fieldSeen = false ∧ s.mga.assembly.spoiled = true ∧
       (assembling.mgaFrame .pin f f).1.mga.taken.isSome = true ∧ (s.mgaFrame .pin f f).1.mga.taken = none ∧
       (s.mgaFrame .pin f f).1.count .messagesSpoiled = 1) ∧
    (after .nodeFrameTime up).mga.assembly.spoiled = false := by decide +kernel
/-- An EMPTY message takes a reply that was HELD when it began, or that its own boundary's execution gives, and no
other (R168). -/
theorem test_a_later_reply_waits_for_the_next_message :
    (let f := putByte active 2 0
     let held : State := { up with mga := { up.mga with buffer := some (Vector.replicate 32 9) } }
     let s := ((endedOn .pin).mgaFrame .pin f f).1
     let t : State := { s with hwc := { s.hwc with access := some (access false true 64 (some 3)) } }
     (up.mgaFrame .pin f f).1.mga.emptyStart = none ∧ (held.mgaFrame .pin f f).1.mga.emptyStart = some .pin ∧
       s.mga.emptyStart = some .pin ∧ (after .replyWrite (after (.identify (req 0 0 0)) s)).mga.writing.isSome = true ∧
       (after .accessReply t).mga.buffer.isSome = true ∧
       (after .replyWrite (after .accessReply t)).mga.writing = none ∧
       (after .replyWrite (after .accessReply (after (.identify (req 0 0 0)) t))).mga.writing = none) := by
  decide +kernel
/-- A call waiting to the queue tone, its frame numbered 0 sent by the tables in force, and others about to be: tone 1
at 500 Hz and silent. -/
def retuning : State :=
  let s := (withCall .waiting false .normal).modCadence 0 (fun _ =>
    { role := .queue, copy := some (up.tbs.active.cadence 0), phase := .on, remaining := 9, acc1 := 0x4000 })
  after .nodeFrameTime { s with
    tbs := { s.tbs with shadow := tables [(672 + 4, 500), (672 + 6, 0)] },
    rif := { s.rif with clock := { s.rif.clock with number := 15 } } }
/-- The frame on the highway is silent for port 0; port 0's first accumulator. -/
def heardAt (s : State) : Option Bool × BitVec 16 :=
  (s.hwc.downlink.map (fun d => decide (d.voice[(0 : PortNo)] = 0)), (s.cadence 0).acc1)

/-- A changed tone sounds in the highway frame numbered 0, the first after the switch boundary, whether the switch was
pending when it was composed or not; a node restart that takes the switch back first leaves the tone in force (R104,
R165). -/
theorem test_tones_change_in_the_first_frame :
    (let pend (s : State) : State := { s with tbs := { s.tbs with switching := true } }
     heardAt retuning = (some false, 0x4000 + 3277) ∧
     heardAt (after .bankSwitch (after .superframeBoundary (pend retuning))) = (some true, 0x5000) ∧
     ((after .bankSwitch (after .superframeBoundary (pend retuning))).cadence 0).remaining = 8 ∧
     (heardAt (after .bankSwitch (after (.restartNode (req 0 0 0)) (after .superframeBoundary (pend retuning))))).1 =
       some false ∧
     (let late := after .superframeBoundary (after .nodeFrameTime (after .superframeBoundary (pend retuning)))
      heardAt (after .bankSwitch late) = heardAt late)) := by
  decide +kernel
/-- Before its boundary, a table switch reaches nothing of the frame being sent; after it, the tones of a frame that
sends its own samples. -/
theorem witness_retone :
    retuning.rif.clock.number = 0 ∧ retuning.rif.clock.boundaryDue = true ∧
      (after .superframeBoundary retuning).rif.clock.boundaryDue = false ∧
      retuning.hwc.downlink.map (fun d => d.live) = some true ∧
      (after .superframeBoundary retuning).cadence 0 =
        (Cadence.advance retuning.tbs.active retuning.tgn.formed[(0 : PortNo)]).boundary := by decide +kernel
/-- A reference given up within the node frame time that named it: the clock completes that frame time at its full
length, at the timing it began with, and naming the reference again is a realignment (R129, R130). -/
theorem test_holdover_completes_the_frame_time :
    (let down (i : RingInput) (s : State) : State :=
       after (.inputDown i) (s.modHealth i (fun h => { h with miss := 8, downDue := true }))
     let s (age : Nat) : State :=
       let x := up.modInput .sin (fun x => { x with timing := 100 })
       { x with rif := { x.rif with clock := { x.rif.clock with age := age } } }
     let t := down .sin (down .pin (s 200))
     (down .pin (s 200)).rif.clock.timing = 100 ∧ (down .pin (s 200)).rif.clock.spanning = true ∧
       t.rif.clock.timing = 0 ∧ t.rif.clock.spanning = false ∧ t.untilNode = 536 ∧ t.count .slips = 1 ∧
       (let u := after (.inputUp .sin) (t.modHealth .sin (fun h => { h with upCount := 65535 }))
        u.prc.service = some .sin ∧ u.rif.clock.spanning = true ∧ u.count .slips = 2) ∧
       (down .sin (down .pin (s 900))).rif.clock.timing = 164 ∧
       (down .sin (down .pin (s 900))).untilNode = 0) := by decide +kernel
theorem witness_downlink :
    (let s : State := { up with rif := { up.rif with clock := { up.rif.clock with timing := 1 } } }
     (after .nodeFrameTime s).rif.clock.spanning = true ∧ s.hwc.state = .running) ∧
    (after .nodeFrameTime up).rif.clock.spanning = false ∧
    up.hwc.state = .running ∧ State.reset.hwc.state = .restarting ∧
    (let s : State := { up with hwc := { up.hwc with state := .settling, phaseCount := 2, phaseRun := true } }
     s.hwc.state = .settling ∧ (after .nodeFrameTime s).hwc.phaseCount ≠ 0) ∧
    ((after .nodeFrameTime up).hwc.downlink).isSome = true := by decide +kernel
/-- PIN idle and SIN active for 16 frame times, follow-active checked or not. -/
def onSin (due : Bool) : State :=
  let s := (up.modHealth .pin (fun h => { h with idle := 16 })).modHealth .sin (fun h => { h with active := 16 })
  { s with prc := { s.prc with followDue := due } }

theorem witness_conditions :
    (let s := up.modHealth .pin (fun h => { h with miss := 8, downDue := true })
     (s.health .pin).up = true ∧ (s.health .pin).downDue = true ∧ s.inBypass = false) ∧
    ((holdOver (some .pin)).prc.holdEndDue = true ∧ (holdOver (some .pin)).prc.service = some .pin) ∧
    (let s := State.reset.modHealth .sin (fun h => { h with upCount := 65535 })
     (s.health .sin).up = false ∧ (if s.sect.upHold = 0 then 1 else s.sect.upHold) ≤ (s.health .sin).upCount) ∧
    ((onSin true).prc.state = .through ∧ (onSin true).prc.service = some .pin ∧
      ((onSin true).health .pin).idle = 16 ∧ ((onSin true).health .sin).active = 16 ∧
      (onSin true).prc.followDue = true) := by decide +kernel
/-- Follow-active is checked at the end of an input's frame time, and at no other moment (R138). -/
theorem test_follow_active_waits_for_a_frame_time :
    (after .followActive (onSin false)).prc.service = some .pin ∧
    (let s := after (.inputFrameTime .pin none) (onSin false)
     s.prc.followDue = true ∧ (after .followActive s).prc.service = some .sin) ∧
    (let s := after (.inputFrameTime .pin (some ⟨0, bytes⟩)) (onSin true)
     s.prc.followDue = false ∧ (after .followActive s).prc.service = some .pin) := by decide +kernel
/-- A change of service input at the new input's own end, half a frame time or more into the node frame time, ends it
with that frame's numbers; sooner, the next end does. One at the old input's end is followed by the frame time that
end begins, which takes the new timing (R130). -/
theorem test_a_new_reference_ends_the_frame_time :
    (let at_ (age : Nat) : State :=
       let s := (onSin true).modInput .sin (fun x => { x with timing := age, lastClass := .good, store := some active })
       { s with rif := { s.rif with
           pinPort := { s.rif.pinPort with since := age }, clock := { s.rif.clock with number := 8, age := age } } }
     (at_ 368).rif.ended = none ∧ (after .followActive (at_ 368)).rif.ended = some .sin ∧
       (after .nodeFrameTime (after .followActive (at_ 368))).rif.clock.number = 5 ∧
       (after .followActive (at_ 367)).rif.ended = none ∧ (after .followActive (at_ 367)).untilNode = 736) ∧
    (let s : State := { onSin true with rif := { (onSin true).rif with
       ended := some .pin, sinPort := { (onSin true).rif.sinPort with since := 600, timing := 136 },
       clock := { (onSin true).rif.clock with number := 8, age := 736 } } }
     let t := after .nodeFrameTime (after .followActive s)
     t.rif.clock.number = 9 ∧ t.rif.clock.age = 0 ∧ t.rif.clock.spanning = true ∧ t.count .slips = 1 ∧
       t.untilNode = 872) := by decide +kernel
theorem witness_uplink :
    State.reset.hwc.state ≠ .running ∧ up.hwc.state = .running ∧ (up.pli 7).ready = true ∧
      slotReady (putByte (Vector.replicate 16 0) 0 0x80) = true ∧ slotReady (Vector.replicate 16 0) = false ∧
      ((up.modPli 7 (fun x => { x with ready := false, readyCount := 15 })).pli 7).ready = false := by
  decide +kernel
/-- A decoder on port 28, whose PLI is ready. -/
def hunting (x : Decoder) : State := up.modDecoder 2 (fun _ => { x with port := some 28 })

theorem witness_uplink_hands_on :
    (let s := hunting { timing .make 3 0 .made with failed := 1 }
     s.decoderOf (portAt 7 0) = some 2 ∧ s.awaitsDecoder 28 = false ∧ s.supervision 28 = .normal ∧
       s.lsv.testPort ≠ some 28 ∧ (Decoder.take s.sect .made (s.decoder 2)).2 = .quiet ∧
       (Decoder.take s.sect .broken (s.decoder 2)).2 = .failed ∧ (s.decoder 2).failed < 2) := by decide +kernel
/-- A burst that is complete with this bit, one that fails for the third time, and a port that sends voice. -/
theorem witness_uplink_outcomes :
    (let s := (hunting { timing .brk up.sect.idZeroMin 15 .broken with bits := List.replicate 15 false }).modRecord 28
       (fun r => { r with identity := some .pending })
     s.decoderOf (portAt 7 0) = some 2 ∧ s.awaitsDecoder 28 = false ∧
       (Decoder.take s.sect .made (s.decoder 2)).2 = .complete) ∧
    (let s := (hunting { timing .make 3 0 .made with failed := 2 }).modRecord 28
       (fun r => { r with identity := some .pending })
     s.decoderOf (portAt 7 0) = some 2 ∧ s.awaitsDecoder 28 = false ∧ 2 ≤ (s.decoder 2).failed ∧
       (Decoder.take s.sect .broken (s.decoder 2)).2 = .failed ∧ (s.record 28).identity = some .pending) ∧
    ((talking.pli 0).ready = true ∧ talking.hwc.state = .running ∧
      (talking.record (portAt 0 0)).channel = some 0) ∧ talking.bindingsKept := by
  unfold State.bindingsKept
  exact ⟨by decide +kernel, by decide +kernel, by decide +kernel, by decide +kernel⟩
theorem witness_pli_return_loss :
    (let s := up.modPli 7 (fun x => { x with ready := false, readyCount := 16 })
     (s.pli 7).ready = false ∧ (s.pli 7).readyCount = 16) ∧
    (up.modPli 7 (fun x => { x with ready := false, lossCount := 65535 })).isDue (.pliLossTimeout 7) = true := by
  decide +kernel
theorem witness_access_requests :
    (req 0 8 0).position = none ∧ (req 0 7 63).position = some 7 ∧ (req 0 7 63).index < 64 ∧
      64 ≤ (req 0 7 64).index ∧ State.reset.inBypass = false ∧ State.reset.hwc.state ≠ .running ∧
      (up.pli 7).ready = true ∧ ((up.modPli 7 (fun _ => {})).pli 7).ready = false ∧
      (req 0 7 0).pliWrite = false ∧ (req 0 7 0).index = 0 ∧ (req 16 7 0).pliWrite = true ∧
      up.hwc.access = none := by decide +kernel

/-- A downlink frame on the highway, and an access in flight. -/
def inFlight (a : Access) : State :=
  let s := after .nodeFrameTime up
  { s with hwc := { s.hwc with access := some a } }

theorem witness_accesses :
    (access true false 0 none).composed = true ∧ (inFlight (access true false 0 none)).hwc.downlink.isSome = true ∧
      (inFlight (access true false 0 none)).hwc.state = .running ∧
      (inFlight (access false true 64 (some 3))).hwc.access = some (access false true 64 (some 3)) ∧
      (inFlight (access false true 0 none)).hwc.access = some (access false true 0 none) := by decide +kernel
/-- An uplink frame in which position 7 brings a slot, and every other a slot in order with nothing in it. -/
def slotsWith (x : PliSlot) : Vector PliSlot 8 := (Vector.replicate 8 (putByte (Vector.replicate 16 0) 0 0x80)).set 7 x
/-- A slot in order with a valid reply of an index, and a status word. -/
def replying (index status : Byte) : PliSlot :=
  putWord (putByte (putByte (putByte (Vector.replicate 16 0) 0 0x80) 12 status) 13 (0x80 ||| index)) 14 0x1234

/-- A reply of the access's own index is recorded and answered; another is stray, and the access's timer falls; a
position lost ends the access; a status word brings its faults (R148, R151, R153, R154). -/
theorem test_an_uplink_frame_serves_the_access :
    (let s := inFlight (access false true 64 none)
     let t := after (.uplinkFrame (slotsWith (replying 63 0))) s
     let u := after (.uplinkFrame (slotsWith (replying 62 0x11))) s
     let v := after (.uplinkFrame (slotsWith (Vector.replicate 16 0))) s
     t.hwc.access = some (access false true 64 (some 0x1234)) ∧ t.count .pliStrayReplies = 0 ∧
       u.hwc.access = some (access false true 63 none) ∧ u.count .pliStrayReplies = 1 ∧
       (u.line 28).faults.feedLimit = true ∧ (u.line 29).faults.feedLimit = false ∧
       (u.line 29).faults.pliSupply = true ∧
       v.hwc.access = none ∧ (v.mga.buffer.map (fun m => byteAt m 4)) = some 10 ∧ v.count .pliLosses = 1) ∧
    ((after (.uplinkFrame (slotsWith (Vector.replicate 16 0))) (inFlight (access true true 64 none))).mga.buffer = none) := by
  decide +kernel
theorem witness_highway_phases :
    talking.inBypass = false ∧
    (let s : State := { State.reset with hwc := { State.reset.hwc with phaseCount := 0 } }
     s.hwc.state = .restarting ∧ s.hwc.phaseCount = 0) ∧
    (let s : State := { State.reset with hwc := { State.reset.hwc with state := .settling, phaseCount := 0 } }
     s.hwc.state = .settling ∧ s.hwc.phaseCount = 0) := by decide +kernel
theorem witness_bypass :
    (talking.inBypass = false ∧ (talking.record 0).state ≠ .idle ∧ (req 0 0 0).force = false ∧
      (req 32 0 0).force = true ∧ (∀ p, (up.record p).state = .idle) ∧ up.prc.cause ≠ some .straps ∧
      bypassed.inBypass = true ∧ bypassed.prc.cause = some .request) ∧ bypassed.bypassKept := by
  unfold State.bypassKept
  exact ⟨by decide +kernel, by decide +kernel⟩
/-- On leaving BYPASS the node serves SIN where its last frame time alone was GOOD and ACTIVE, else PIN (R137). -/
theorem test_leaving_bypass_names_the_active_input :
    (let s := bypassed.modInput .sin (fun x => { x with lastClass := .good, lastMarker := some .active })
     (after (.leaveBypass (req 0 0 0)) s).prc.service = some .sin ∧
       (after (.leaveBypass (req 0 0 0)) bypassed).prc.service = some .pin ∧
       (after (.bypass (req 32 0 0)) talking).count .forcedEnds = 1) := by decide +kernel
/-- Two callers lifted during BYPASS are taken, in ascending order of port (R6). -/
theorem test_leaving_bypass_takes_the_lifted :
    (let s := (bypassed.modLine 5 (fun l => { l with settled := .offhook })).modLine 2
       (fun l => { l with settled := .offhook })
     let t := after (.leaveBypass (req 0 0 0)) s
     t.ccl.queue = [2, 5] ∧ (t.record 2).ref = some 1 ∧ (t.record 5).ref = some 2 ∧
       (t.record 0).state = .idle) := by decide +kernel
theorem witness_ranges_of_reads :
    up.inBypass = false ∧ (req 12 1 0).target = none ∧ (req 0 12 500).target = some (.table .post) ∧
      (req 0 12 500).index + (req 0 12 500).count = 512 ∧ (req 0 13 0).count = 13 ∧ (req 0 0 0).count = 0 ∧
      (req 10 1 55).index + (req 10 1 55).count = 56 ∧ (req 10 1 56).index + (req 10 1 56).count = 57 ∧
      (req 64 1 0).clearFlag = true ∧ (req 0 32 0).port = none ∧ (req 0 31 0).port = some 31 := by
  decide +kernel
theorem witness_writes_to_tables :
    up.inBypass = false ∧ up.tablesKept = true ∧ (req 0x80 1 511).activeBank = true ∧
      (req 0 1 511).activeBank = false ∧ (req 0 1 511).target = some (.table .post) ∧
      (req 8 1 0).target = some .portStatus ∧ up.tbs.switching = false ∧ validate up.tbs.shadow = none ∧
      validate (tables [(544 + 26, 0x0223)]) = some (7, .sect, 26) := by decide +kernel

/-- A switch due that disables port 0, whose line talks, and enables port 31. -/
def switching : State :=
  let s := withTables talking [(16 * 31, 0)]
  { s with tbs := { s.tbs with shadow := tables [(0, 0)], switching := true, switchDue := true } }

theorem witness_switch :
    (switching.tbs.switching = true ∧ switching.tbs.switchDue = true ∧ (switching.post 31).enabled = false ∧
      (switching.tbs.shadow.post 31).enabled = true ∧ (switching.post 0).enabled = true ∧
      (switching.tbs.shadow.post 0).enabled = false) ∧ switching.callsKept ∧ switching.drivesKept := by
  unfold State.callsKept State.drivesKept
  exact ⟨by decide +kernel, by decide +kernel, by decide +kernel⟩
theorem witness_other_requests :
    up.prc.cause ≠ some .straps ∧ up.inBypass = false ∧ bypassed.inBypass = true ∧
      (Instr.discard (req 0 0 0)).request = some (6, req 0 0 0) ∧ (State.powerOn 63).prc.cause = some .straps := by
  decide +kernel

/-! ### Ill-formed commands are refused by the check -/

theorem test_wf_arrival_outside_frame :
    (Instr.inputFrameTime .pin (some ⟨736, bytes⟩)).wellFormed = false ∧
      (Instr.inputFrameTime .pin (some ⟨735, bytes⟩)).wellFormed = true ∧
      (Instr.inputFrameTime .pin (some ⟨0, bytes ++ bytes⟩)).wellFormed = false ∧
      (Instr.inputFrameTime .pin (some ⟨0, bytes.drop 1 ++ bytes⟩)).wellFormed = true := by decide +kernel
theorem test_wf_bad_request_kind :
    (Instr.badRequest 1 (req 0 0 0)).wellFormed = false ∧ (Instr.badRequest 15 (req 0 0 0)).wellFormed = false ∧
      (Instr.badRequest 0 (req 0 0 0)).wellFormed = true := by decide +kernel

/-! ### Commands read from their bytes, written out from 13.3 and 13.4 -/

theorem test_decode_ack :
    decodeCommand (cellOfList [0x41, 5, 3, 31, 7, 11, 0xEE]) = some (.ack 3 31 7 11) := by decide +kernel
theorem test_decode_call_commands :
    decodeCommand (cellOfList [0x42, 5, 7]) = some (.answer 7) ∧
      decodeCommand (cellOfList [0x43, 5, 7]) = some (.hold 7) ∧
      decodeCommand (cellOfList [0x44, 5, 7]) = some (.resume 7) ∧
      decodeCommand (cellOfList [0x45, 5, 7]) = some (.clear 7) := by decide +kernel
theorem test_decode_recall_cancel :
    decodeCommand (cellOfList [0x46, 5, 31, 19]) = some (.recall 31 19) ∧
      decodeCommand (cellOfList [0x47, 5, 30]) = some (.cancel 30) := by decide +kernel
theorem test_decode_unknown_cell_types :
    decodeCommand (cellOfList [0x40, 5]) = none ∧ decodeCommand (cellOfList [0x48, 5]) = none := by decide +kernel
theorem test_decode_write_words :
    decodeRequest (messageOfList [1, 5, 4, 0x77, 0x82, 2, 0x00, 0x1A, 0x62, 0x23, 0x0A, 0x32]) =
      .writeWords ⟨0x77, 0x82, 2, 0x001A,
        #v[0x62, 0x23, 0x0A, 0x32, 0, 0, 0, 0, 0, 0, 0, 0, 0, 0, 0, 0, 0, 0, 0, 0, 0, 0, 0, 0]⟩ := by
  decide +kernel
theorem test_decode_request_types :
    ∀ k ∈ ([0, 16, 255] : List Byte), ∃ r, decodeRequest (messageOfList [1, 5, k]) = .badRequest k r := by
  intro k hk
  simp only [List.mem_cons, List.not_mem_nil, or_false] at hk
  obtain rfl | rfl | rfl := hk <;> exact ⟨_, rfl⟩
theorem test_request_fields :
    (req 0x9A 0x0C 0x0102).target = some .counterView ∧ (req 0x9C 0 0).target = none ∧ (req 0x9A 0x0C 0x0102).pliWrite = true ∧
      (req 0x9A 0x0C 0x0102).force = false ∧ (req 0x9A 0x0C 0x0102).clearFlag = false ∧
      (req 0x9A 0x0C 0x0102).activeBank = true ∧ (req 0x9A 0x0C 0x0102).count = 12 ∧
      (req 0x9A 0x0C 0x0102).index = 258 ∧ (req 0x68 0 0).target = some .portStatus ∧
      (req 0x68 0 0).force = true ∧ (req 0x68 0 0).clearFlag = true := by decide +kernel
theorem test_table_words_spell_no_command : decodeTableWord 32 0x41050101 = none := rfl

/-! ### Figures the manual works out -/

/-- R175's check value. -/
theorem test_check_value :
    frameCheck [0x31, 0x32, 0x33, 0x34, 0x35, 0x36, 0x37, 0x38, 0x39] = 0x29B1 := by decide +kernel
/-- 1.2, the worked case: R = 2169 and 2873 with offset 12 and slope 2000; and the limit cases of R1. -/
theorem test_calibration :
    calibrate ⟨0, 12, 2000, true, 0⟩ 2169 = 53 ∧ calibrate ⟨0, 12, 2000, true, 0⟩ 2873 = 397 ∧
      calibrate ⟨0, -128, 4095, true, 0⟩ 4095 = 999 ∧ calibrate ⟨0, 127, 4095, true, 0⟩ 0 = -999 := by
  decide +kernel
/-- 1.2: F after each of the first eight measurements, and its rest at 394. -/
theorem test_filter :
    [53, 139, 203, 251, 287, 314, 334, 349].map (fun f => filterStep 2 f 397) =
      [139, 203, 251, 287, 314, 334, 349, 361] ∧ filterStep 2 394 397 = 394 := by decide +kernel
/-- 1.2: with F = 287 an ONHOOK line's candidate is OFFHOOK; just below 160 it is not. -/
theorem test_offhook_limit :
    classify (up.thresholds 9) .onhook false 287 = .offhook ∧ classify (up.thresholds 9) .onhook false 159 = .onhook ∧
      classify (up.thresholds 9) .offhook false 140 = .offhook := by decide +kernel
/-- 2.8: the bits 0101 1010 0011 0010 carry code 1443 with a right check. -/
theorem test_burst_code :
    burstCode (bits16 0x5A32) = 1443 ∧ burstChecks (bits16 0x5A32) = true ∧ burstChecks (bits16 0x5A33) = false := by
  decide +kernel
/-- 2.8: with the default windows a break of 48 frames is a 0, of 113 a 1, and of 78 neither. -/
theorem test_break_windows :
    up.sect.breakBit 48 = some false ∧ up.sect.breakBit 113 = some true ∧ up.sect.breakBit 78 = none := by
  decide +kernel
/-- 3.9, step 3: class 2 goes behind the last entry of class 2 or less, before class 3. -/
theorem test_queue_place :
    placeAfter (fun q => decide (q = (9 : PortNo) ∨ q = 4)) 17 [9, 4, 22] = [9, 4, 17, 22] ∧
      placeAfter (fun _ => false) 5 [4, 17, 22] = [5, 4, 17, 22] := by decide +kernel
/-- 6.5: the first samples of 425 Hz at level 4000, and the limit of a full tone. -/
theorem test_tone_samples :
    phaseStep 425 = 3482 ∧
      [0, 3482, 6964, 10446].map (fun a => toneSum ⟨425, 0, 4000⟩ (BitVec.ofNat 16 a) 0) = [0, 1254, 2460, 3325] ∧
      toneComponent 425 8191 0x4000 = 8190 := by decide +kernel
/-- 7.7: the uplink arithmetic. -/
theorem test_uplink :
    [3000, -7000, -5, 1].map (fun x => limiter 7800 (channelGain 40 (portGain 80 x))) = [4688, -7800, -8, 1] ∧
      channelGain 40 (portGain 80 (-7000)) = -10938 ∧ channelGain 32 (portGain 32 (-1)) = -1 := by decide +kernel
/-- 7.7: gain control over the five blocks. -/
theorem test_gain_control :
    [(8750, 40), (8125, 38), (3750, 36), (1200, 36), (150, 37)].map (fun x => up.sect.blockGain x.1 x.2) =
      [38, 36, 36, 37, 37] := by decide +kernel
/-- 13.5: the first bytes of a downlink frame of a node in service, and the drive word of PLI 0. -/
theorem test_downlink_bytes :
    ((after .nodeFrameTime talking).hwc.downlink.map (fun d => (d.bytes.take 7, d.bytes.length, driveWord d.drives 0))) =
      some ([0x71, 0xD2, 1, 0, 0, 0, 0], 87, 0x0001) := by decide +kernel
/-- 11.7: the defaults pass the commit check, and a quota of 0 fails check 7. -/
theorem test_commit_check :
    validate [] = none ∧ validate (tables [(544 + 26, 0x0223)]) = some (7, .sect, 26) := by decide +kernel
/-- Of two failures the earlier check is reported, and of two sets the lower (R159). -/
theorem test_first_failure :
    validate (tables [(512 + 8 + 4, 0xFF0A), (512 + 16 + 4, 0xFF0A), (544 + 26, 0x0223)]) = some (3, .thresholds, 12) ∧
      validate (tables [(544 + 26, 0x0223), (16 * 5, 0xC000), (16 * 5 + 1, 7), (16 * 9, 0xC000), (16 * 9 + 1, 7)]) =
        some (6, .post, 145) := by decide +kernel

/-! ### One step each -/

theorem test_answer_confirms_nothing_else :
    ((after (.answer 1) offered).record 0).state = .connected ∧ ((after (.answer 1) offered).line 0).drive = .reversed ∧
      ((after (.answer 1) offered).line 0).reversal = 4 := by decide +kernel
theorem test_clear_releases :
    ((after (.clear 1) talking).record 0).state = .cleared ∧
      (after (.clear 1) talking).chan 0 = { state := .releasing, timer := 64 } := by decide +kernel
theorem test_recall_rings :
    (ringing.record 31).state = .ringing ∧ (ringing.line 31).drive = .ring ∧ (ringing.record 31).ref = some 1 := by
  decide +kernel
theorem test_lift_waits :
    ((after (.settle 0) (settling up .onhook .offhook)).record 0).state = .waiting ∧
      (after (.settle 0) (settling up .onhook .offhook)).ccl.queue = [0] := by decide +kernel
theorem test_lost_frame_is_filled :
    (after (.inputFrameTime .pin none) up).outFrame .pout = some (fillFrame 1 0) ∧
      (after (.inputFrameTime .pin none) up).count .lostFramesPin = 1 := by decide +kernel
theorem test_claim_written_into_frame :
    ((after (.inputFrameTime .pin (some ⟨0, bytes⟩)) (withCall .waiting false .normal)).outFrame .pout |>.map
      (fun f => (tagOf f 0, checks f))) = some (⟨.claim, 1⟩, true) := by decide +kernel
theorem test_node_report_cell :
    up.nodeReport.toList = [0x84, 1, 0, 0, 1, 3, 0, 0, 0, 0, 0, 0] := by decide +kernel
theorem witness_reports_composed :
    (talking.record 0).effClass = some 2 ∧ (talking.record 0).baseClass = some 2 ∧
      (talking.record 0).identity = some .notFitted ∧
      (closed.ccl.closing.find? (fun e => decide (e.entry = 0))).isSome = true ∧ ∀ e ∈ closed.ccl.closing, e.entry ≠ 1 := by
  decide +kernel
/-- The FAULT cell of a line with F = −2 and SHORT, the CLOSE cell of a refused recall, and their echoes (R94, R95). -/
theorem test_fault_and_close_report_cells :
    (let s := up.modLine 9 (fun l => { l with settled := .short, filtered := -2, faults := { short := true } })
     ((s.compose (.fault 9)).map (fun x => (x.1.toList, x.2))) =
       some ([0x82, 1, 9, 0x02, 4, 0xFF, 0xFE, 0, 0, 0, 0, 0], 0x02)) ∧
    ((closed.compose (.close 0)).map (fun x => (x.1.toList, x.2))) =
      some ([0x83, 1, 0, 0, 11, 0, 0, 0, 0, 0, 0, 0], 11) := by decide +kernel
/-- Words of the state views, by the fields of 13.7 (R164). -/
theorem test_view_words :
    talking.readTarget .portStatus true 4 = 0x0401 ∧ talking.readTarget .portStatus false 5 = 0x764A ∧
      talking.readTarget .portStatus true 6 = 0x00FF ∧ talking.readTarget .channelMap true 0 = 0x0200 ∧
      up.readTarget .nodeStatus true 12 = 0xFF00 ∧ up.readTarget .nodeStatus true 15 = 0xFFFF ∧
      (switching.readTarget (.table .post) true 0, switching.readTarget (.table .post) false 0) =
        (defaultWord 0, 0) := by decide +kernel
theorem test_state_report_cell :
    (talking.stateReport 0).toList = [0x81, 1, 1, 0, 0x42, 0x16, 0, 0xFF, 0xFF, 0xFF, 0, 0] := by decide +kernel
theorem test_reply_bytes :
    ((after (.readWords (req 2 1 26)) up).mga.buffer.map (fun m => m.toList.take 11)) =
      some [2, 1, 2, 7, 1, 1, 0, 26, 0x62, 0x23, 0] := by decide +kernel
theorem test_bypass_forced :
    (after (.bypass (req 32 0 0)) talking).prc.state = .bypass ∧
      (after (.bypass (req 32 0 0)) talking).count .forcedEnds = 1 := by decide +kernel

end Sys2Proof.Tests
end

section
/-! PROOFS. The identity outcomes of chapter 2: what storing an outcome and releasing a decoder do, then the two
expiries (R26, R34), one decoder and one bit (R29 to R32), and the judging of a burst (R33, R35). -/

namespace Sys2Proof.Machine

/-! ### Counting after an earlier count -/

/-- A counter not named before rises beside those named. -/
theorem counted_snoc {s t u : State} {l : List Counter} {k : Counter} (h : s.counted t l) (hk : k ∉ l)
    (g : t.counted u [k]) : s.counted u (l ++ [k]) := by
  intro j
  rw [g j, h j]
  by_cases hj : j = k
  · subst hj; simp [hk]
  · simp [hj]

/-- Counting looks at the counters alone. -/
theorem counted_of_counters_eq {s t u : State} {l : List Counter} (h : s.counted t l)
    (hu : u.counters = t.counters) : s.counted u l := by
  intro k
  rw [← h k, State.count, hu, State.count]

/-! ### A record whose identity outcome is stored (R37, R42) -/

/-- A change of the identity that leaves the state and the announced flag as they were moves the record, and lists the
CALL entry where the record is announced (R40, R42). -/
theorem setRecord_identity {s : State} {p : PortNo} {new : CallRecord} (hst : new.state = (s.record p).state)
    (ha : new.announced = (s.record p).announced) (hid : (s.record p).identity ≠ new.identity) :
    s.setRecord p new =
      if (s.record p).announced then (s.modRecord p (fun _ => new)).listEntry (.call p)
      else s.modRecord p (fun _ => new) := by
  simp [State.setRecord, State.reportChange, CallRecord.reportDiffers, hst, ha, hid]

/-- From `s` to `t` CCL stored outcome `o` for port `p`: over PENDING alone, with the code and matched port given, and
the CALL entry listed where R42 has it; no other record and nothing of the wait queue moved (R37). -/
structure State.OutcomeStored (s t : State) (p : PortNo) (o : IdOutcome) (code : Option Nat)
    (m : Option PortNo) : Prop where
  pending : (s.record p).identity = some .pending →
    t.record p = { s.record p with identity := some o, code := code, matched := m }
  settled : (s.record p).identity ≠ some .pending → t.record p = s.record p
  told : s.outcomeTold t p
  others : ∀ q, q ≠ p → t.record q = s.record q
  queue : t.ccl.queue = s.ccl.queue

/-- Storing an outcome over PENDING: the record, and its CALL entry where the record is announced. -/
theorem storeOutcome_of_pending {s : State} {p : PortNo} {o : IdOutcome} {code : Option Nat} {m : Option PortNo}
    (h : (s.record p).identity = some .pending) (ho : o ≠ .pending) :
    s.storeOutcome p o code m =
      let u := s.modRecord p (fun _ => { s.record p with identity := some o, code := code, matched := m })
      if (s.record p).announced then u.listEntry (.call p) else u := by
  have hne : (s.record p).identity ≠ some o := by
    rw [h]; exact fun e => ho (Option.some.inj e).symm
  rw [State.storeOutcome, if_pos h]
  exact setRecord_identity rfl rfl hne

/-- An identity that is not PENDING stays (R37). -/
theorem storeOutcome_of_not_pending {s : State} {p : PortNo} {o : IdOutcome} {code : Option Nat}
    {m : Option PortNo} (h : (s.record p).identity ≠ some .pending) : s.storeOutcome p o code m = s := by
  simp [State.storeOutcome, h]

theorem storeOutcome_keeps (s : State) (p : PortNo) {o : IdOutcome} (code : Option Nat) (m : Option PortNo)
    (ho : o ≠ .pending) : s.changesOnly (s.storeOutcome p o code m) [.ccl, .sgu] := by
  by_cases h : (s.record p).identity = some .pending
  · rw [storeOutcome_of_pending h ho]
    have hu := modRecord_keeps s p (fun _ => { s.record p with identity := some o, code := code, matched := m })
    exact changesOnly_ite
      (changesOnly_trans (changesOnly_mono hu (by simp)) (changesOnly_mono (listEntry_keeps _ _) (by simp)))
      (changesOnly_mono hu (by simp))
  · rw [storeOutcome_of_not_pending h]; exact changesOnly_refl s _

theorem storeOutcome_stored (s : State) (p : PortNo) {o : IdOutcome} (code : Option Nat) (m : Option PortNo)
    (ho : o ≠ .pending) : s.OutcomeStored (s.storeOutcome p o code m) p o code m := by
  by_cases h : (s.record p).identity = some .pending
  · rw [storeOutcome_of_pending h ho]
    generalize hu : s.modRecord p (fun _ => { s.record p with identity := some o, code := code, matched := m }) = u
    have hsgu : u.sgu = s.sgu := by rw [← hu]; rfl
    have hbyp : u.inBypass = s.inBypass := by rw [← hu]; rfl
    have hself : u.record p = { s.record p with identity := some o, code := code, matched := m } := by
      rw [← hu]; simp
    have hother : ∀ q, q ≠ p → u.record q = s.record q := fun q hq => by
      rw [← hu]; exact State.modRecord_record_of_ne s p _ hq
    have hqueue : u.ccl.queue = s.ccl.queue := by rw [← hu]; rfl
    have hlist : (u.listEntry (.call p)).ccl = u.ccl := changesOnly_ccl (listEntry_keeps u _) (by simp)
    by_cases ha : (s.record p).announced = true
    · simp only [ha, if_true]
      refine ⟨fun _ => ?_, fun hn => absurd h hn, ⟨fun _ _ => ?_, fun hn => ?_⟩, fun q hq => ?_, ?_⟩
      · simpa only [State.record, hlist] using hself
      · simpa only [State.listsOnly, hsgu, hbyp] using listEntry_listsOnly u (.call p)
      · simp [h, ha] at hn
      · simpa only [State.record, hlist] using hother q hq
      · rw [hlist, hqueue]
    · simp only [ha]
      exact ⟨fun _ => hself, fun hn => absurd h hn, ⟨fun _ ht => absurd ht ha, fun _ => hsgu⟩, hother, hqueue⟩
  · rw [storeOutcome_of_not_pending h]
    exact ⟨fun hp => absurd hp h, fun _ => rfl, ⟨fun hp => absurd hp h, fun _ => rfl⟩, fun _ _ => rfl, rfl⟩

/-- Moves of decoders and counters before and after an outcome is stored make no difference to it. -/
theorem State.OutcomeStored.congr {s u v t : State} {p : PortNo} {o : IdOutcome} {code : Option Nat}
    {m : Option PortNo} (h : u.OutcomeStored v p o code m) (hs : s.changesOnly u [.idd, .counters])
    (ht : v.changesOnly t [.idd, .counters]) : s.OutcomeStored t p o code m := by
  have rs : ∀ q, s.record q = u.record q := fun q => by
    simp only [State.record, changesOnly_ccl hs (by simp)]
  have rt : ∀ q, t.record q = v.record q := fun q => by
    simp only [State.record, changesOnly_ccl ht (by simp)]
  have hbyp : s.inBypass = u.inBypass := by simp only [State.inBypass, changesOnly_prc hs (by simp)]
  refine ⟨?_, ?_, ?_, ?_, ?_⟩
  · simpa only [rs, rt] using h.pending
  · simpa only [rs, rt] using h.settled
  · simpa only [State.outcomeTold, State.listsOnly, State.listedAfresh, rs, hbyp,
      changesOnly_sgu ht (by simp), ← changesOnly_sgu hs (by simp)] using h.told
  · simpa only [rs, rt] using h.others
  · rw [changesOnly_ccl ht (by simp), h.queue, changesOnly_ccl hs (by simp)]

/-! ### A decoder that is released (R27, R28, R36) -/

theorem handOn_freed (s : State) (d : DecNo) : s.decoderFreed (s.handOn d) d := by
  unfold State.handOn
  split
  · next hw =>
    refine ⟨fun _ => ⟨State.modDecoder_decoder_self s d _, hw⟩, fun w rest h => ?_, fun e he => ?_⟩
    · rw [hw] at h; cases h
    · exact State.modDecoder_decoder_of_ne s d _ he
  · next w rest hw =>
    refine ⟨fun h => ?_, fun w' rest' h => ?_, fun e he => ?_⟩
    · rw [hw] at h; cases h
    · rw [hw] at h; cases h; exact ⟨State.modDecoder_decoder_self _ d _, rfl⟩
    · exact State.modDecoder_decoder_of_ne _ d _ he

/-- A release looks at the wait list and the other decoders alone. -/
theorem decoderFreed_congr {s u t : State} {d : DecNo} (h : u.decoderFreed t d)
    (hw : u.idd.waiting = s.idd.waiting) (hd : ∀ e, e ≠ d → u.decoder e = s.decoder e) : s.decoderFreed t d := by
  obtain ⟨hnone, hhead, hothers⟩ := h
  rw [hw] at hnone hhead
  exact ⟨hnone, hhead, fun e he => (hothers e he).trans (hd e he)⟩

/-! ### A decoder that gives an outcome (R36, R37) -/

section giveOutcome
variable (s : State) (d : DecNo) (p : PortNo) {o : IdOutcome} (code : Option Nat) (m : Option PortNo)

theorem giveOutcome_stored (ho : o ≠ .pending) : s.OutcomeStored (s.giveOutcome d p o code m) p o code m :=
  (storeOutcome_stored (s.bump o.counter) p code m ho).congr (changesOnly_mono (bump_keeps s _) (by simp))
    (changesOnly_mono (handOn_keeps _ d) (by simp))

theorem giveOutcome_counted (ho : o ≠ .pending) : s.counted (s.giveOutcome d p o code m) [o.counter] := by
  refine counted_of_counters_eq (bump_counted s o.counter) ?_
  have hstore := changesOnly_counters (storeOutcome_keeps (s.bump o.counter) p code m ho) (by simp)
  exact (changesOnly_counters (handOn_keeps _ d) (by simp)).trans hstore

theorem giveOutcome_freed (ho : o ≠ .pending) : s.decoderFreed (s.giveOutcome d p o code m) d := by
  have hstore := changesOnly_idd (storeOutcome_keeps (s.bump o.counter) p code m ho) (by simp)
  exact decoderFreed_congr (handOn_freed _ d) (by rw [hstore]; rfl)
    (fun e _ => by simp only [State.decoder, hstore]; rfl)

theorem giveOutcome_keeps (ho : o ≠ .pending) :
    s.changesOnly (s.giveOutcome d p o code m) [.idd, .ccl, .sgu, .counters] :=
  changesOnly_trans (changesOnly_mono (bump_keeps s _) (by simp))
    (changesOnly_trans (changesOnly_mono (storeOutcome_keeps _ p code m ho) (by simp))
      (changesOnly_mono (handOn_keeps _ d) (by simp)))

end giveOutcome

/-! ### The two expiries (R26, R34) -/

/-- The port whose wait has expired stands in the wait list. -/
theorem awaitsDecoder_of_waitOver {s : State} {p : PortNo}
    (h : (s.idd.waiting.find? s.waitOver).map Waiter.port = some p) : s.awaitsDecoder p = true := by
  obtain ⟨w, hw, hp⟩ := Option.map_eq_some_iff.mp h
  exact List.any_eq_true.mpr ⟨w, List.mem_of_find?_eq_some hw, decide_eq_true hp⟩

/-- A due DECODER_WAIT_EXPIRY (R26). -/
theorem exec_decoderWaitExpiry {s : State} {p : PortNo} (h : s.isDue (.decoderWaitExpiry p) = true) :
    s.awaitsDecoder p = true ∧
      exec (.decoderWaitExpiry p) s =
        .next (((s.leaveDecoderWait p).bump .idUncheckedBusy).storeOutcome p .uncheckedBusy none none) := by
  have hp : (s.idd.waiting.find? s.waitOver).map Waiter.port = some p := by simpa [State.isDue] using h
  refine ⟨awaitsDecoder_of_waitOver hp, ?_⟩
  change execDecoderWaitExpiry p s = _
  rw [execDecoderWaitExpiry, if_pos hp]

/-- A due IDENTITY_WINDOW_EXPIRY (R34). -/
theorem exec_identityWindowExpiry {s : State} {d : DecNo} {p : PortNo}
    (h : s.isDue (.identityWindowExpiry d) = true) (hp : (s.decoder d).port = some p) :
    exec (.identityWindowExpiry d) s = .next (s.windowExpired d p) := by
  have hover : (s.decoder d).state ≠ .free ∧ s.sect.windowUsed ≤ (s.decoder d).window := by
    simpa [State.isDue, hp] using h
  change execIdentityWindowExpiry d s = _
  simp only [execIdentityWindowExpiry, hp]
  rw [if_pos hover]

/-- Settles O26: a wait that expires gives UNCHECKED-BUSY, a window that expires ABSENT or MALFORMED. -/
theorem expiriesGiveTheirOutcomes : Obligations.ExpiriesGiveTheirOutcomes := by
  intro s
  refine ⟨fun p hdue => ?_, fun d p hdue hp => ?_⟩
  · obtain ⟨hwaits, hexec⟩ := exec_decoderWaitExpiry hdue
    generalize hu : (s.leaveDecoderWait p).bump .idUncheckedBusy = u at hexec
    have hkeep : s.changesOnly u [.idd, .counters] := by
      rw [← hu]
      exact changesOnly_trans (changesOnly_mono (leaveDecoderWait_keeps s p) (by simp))
        (changesOnly_mono (bump_keeps _ _) (by simp))
    have hcount : s.counted u [.idUncheckedBusy] := by
      rw [← hu]; exact bump_counted (s.leaveDecoderWait p) .idUncheckedBusy
    have hstore := storeOutcome_keeps u p (o := .uncheckedBusy) none none (by decide)
    have hstored := (storeOutcome_stored u p (o := .uncheckedBusy) none none (by decide)).congr hkeep
      (changesOnly_refl _ _)
    refine ⟨_, hexec, hwaits, ?_, hstored.pending, hstored.settled, hstored.told, hstored.others, hstored.queue,
      counted_of_counters_eq hcount (changesOnly_counters hstore (by simp)),
      changesOnly_trans (changesOnly_mono hkeep (by simp)) (changesOnly_mono hstore (by simp))⟩
    rw [changesOnly_idd hstore (by simp), ← hu]
    rfl
  · intro o
    have ho : o ≠ .pending := by cases hs : (s.decoder d).startSeen <;> simp [o, hs]
    have hcounter : o.counter = if (s.decoder d).startSeen then .idMalformed else .idAbsent := by
      cases hs : (s.decoder d).startSeen <;> simp [o, hs, IdOutcome.counter]
    have hstored := giveOutcome_stored s d p none none ho
    exact ⟨_, exec_identityWindowExpiry hdue hp, hstored.pending, hstored.settled, hstored.told,
      giveOutcome_freed s d p none none ho, hstored.others, hstored.queue,
      hcounter ▸ giveOutcome_counted s d p none none ho, giveOutcome_keeps s d p none none ho⟩

/-! ### One decoder and one bit (R29 to R32) -/

theorem within_iff {lo hi n : Nat} : within lo hi n = true ↔ lo ≤ n ∧ n ≤ hi := by simp [within]

section take
variable {g : Sect} {bit : Loop} {d : Decoder}

theorem take_first (h : d.previous = none) : Decoder.take g bit d = ({ d with previous := some bit }, .quiet) := by
  simp [Decoder.take, h]

theorem take_same (h : d.previous = some bit) : Decoder.take g bit d = d.runOn g := by
  simp [Decoder.take, h]

theorem take_differs {b : Loop} (h : d.previous = some b) (hb : b ≠ bit) :
    Decoder.take g bit d = Decoder.runEnd g bit { d with previous := some bit } := by
  simp [Decoder.take, h, hb]

theorem runOn_hunt (h : d.state = .hunt) : d.runOn g = (d, .quiet) := by simp [Decoder.runOn, h]

theorem runOn_start (h : d.state = .start) : d.runOn g = ({ d with run := satSucc d.run }, .quiet) := by
  simp [Decoder.runOn, h]

/-- The greatest length a run of the current phase may have (R31, R32). -/
def Sect.longestRun (g : Sect) : BitPhase → Nat
  | .make => g.idMakeMax
  | .brk => max g.idZeroMax g.idOneMax

/-- In BITS a run that goes on past the greatest length of its phase fails the burst (R31, R32). -/
theorem runOn_bits (h : d.state = .bits) :
    d.runOn g =
      if g.longestRun d.phase < satSucc d.run then (d.rehunt, .failed)
      else ({ d with run := satSucc d.run }, .quiet) := by
  cases hp : d.phase <;> simp [Decoder.runOn, Decoder.tooLong, Decoder.rehunt, Sect.longestRun, h, hp]

theorem runEnd_hunt_broken (h : d.state = .hunt) :
    Decoder.runEnd g .broken d = ({ d with state := .start, run := 1 }, .quiet) := by simp [Decoder.runEnd, h]

theorem runEnd_hunt_made (h : d.state = .hunt) : Decoder.runEnd g .made d = (d, .quiet) := by
  simp [Decoder.runEnd, h]

/-- The start period begins the bits, or is dropped (R30). -/
theorem runEnd_start (h : d.state = .start) :
    Decoder.runEnd g bit d =
      if g.idStartMin ≤ d.run ∧ d.run ≤ g.idStartMax then
        ({ d with state := .bits, phase := .make, index := 0, bits := [], run := 1, startSeen := true }, .quiet)
      else (d.rehunt, .quiet) := by
  simp [Decoder.runEnd, h, within_iff]

/-- A make of the right length ends in a break (R31). -/
theorem runEnd_make (h : d.state = .bits) (hp : d.phase = .make) :
    Decoder.runEnd g bit d =
      if g.idMakeMin ≤ d.run ∧ d.run ≤ g.idMakeMax then ({ d with phase := .brk, run := 1 }, .quiet)
      else (d.rehunt, .failed) := by
  simp [Decoder.runEnd, h, hp, within_iff]

/-- The zero window is tried before the one window, so a length in either gives the negation of lying in the first
(R32). -/
theorem breakBit_eq (g : Sect) (n : Nat) :
    g.breakBit n =
      if (within g.idZeroMin g.idZeroMax n || within g.idOneMin g.idOneMax n) = true then
        some (!within g.idZeroMin g.idZeroMax n)
      else none := by
  cases hz : within g.idZeroMin g.idZeroMax n <;> cases ho : within g.idOneMin g.idOneMax n <;>
    simp [Sect.breakBit, hz, ho]

/-- A break that gives a bit adds it; the 16th completes the burst, and an earlier one is followed by a make (R32). -/
theorem runEnd_break_bit {b : Bool} (h : d.state = .bits) (hp : d.phase = .brk) (hb : g.breakBit d.run = some b) :
    Decoder.runEnd g bit d =
      if d.index + 1 < 16 then
        ({ d with bits := d.bits ++ [b], index := d.index + 1, phase := .make, run := 1 }, .quiet)
      else ({ d with bits := d.bits ++ [b], index := d.index + 1 }, .complete) := by
  simp [Decoder.runEnd, h, hp, hb]

/-- A break of any other length fails the burst (R32). -/
theorem runEnd_break_fails (h : d.state = .bits) (hp : d.phase = .brk) (hb : g.breakBit d.run = none) :
    Decoder.runEnd g bit d = (d.rehunt, .failed) := by
  simp [Decoder.runEnd, h, hp, hb]

end take

/-! ### Judging a burst (R33, R35) -/

/-- What a failed burst does before the limit is looked at (R33). -/
def State.burstCounted (s : State) (d : DecNo) : State :=
  (s.bump .idFailedBursts).modDecoder d (fun x => { x.rehunt with failed := x.failed + 1 })

section burstFails
variable {s : State} {d : DecNo} (p : PortNo)

theorem burstCounted_keeps (s : State) (d : DecNo) : s.changesOnly (s.burstCounted d) [.idd, .counters] :=
  changesOnly_trans (changesOnly_mono (bump_keeps s _) (by simp)) (changesOnly_mono (modDecoder_keeps _ d _) (by simp))

theorem burstCounted_counted (s : State) (d : DecNo) : s.counted (s.burstCounted d) [.idFailedBursts] :=
  bump_counted s .idFailedBursts

theorem burstCounted_decoder (s : State) (d : DecNo) :
    (s.burstCounted d).decoder d = { (s.decoder d).rehunt with failed := (s.decoder d).failed + 1 } :=
  State.modDecoder_decoder_self _ d _

theorem burstCounted_decoder_of_ne (s : State) {d e : DecNo} (h : e ≠ d) :
    (s.burstCounted d).decoder e = s.decoder e := State.modDecoder_decoder_of_ne _ d _ h

/-- Before the third failure the decoder hunts again and no outcome is given (R33). -/
theorem burstFails_early (h : (s.decoder d).failed < 2) : s.burstFails d p = s.burstCounted d := by
  have hf : ¬ Config.burstLimit ≤ ((s.burstCounted d).decoder d).failed := by
    rw [burstCounted_decoder]; simp only [Config.burstLimit]; omega
  exact if_neg hf

/-- The third failure gives MALFORMED (R33). -/
theorem burstFails_last (h : 2 ≤ (s.decoder d).failed) :
    s.burstFails d p = (s.burstCounted d).giveOutcome d p .malformed none none := by
  have hf : Config.burstLimit ≤ ((s.burstCounted d).decoder d).failed := by
    rw [burstCounted_decoder]; simp only [Config.burstLimit]; omega
  exact if_pos hf

theorem burstFails_last_stored (h : 2 ≤ (s.decoder d).failed) :
    s.OutcomeStored (s.burstFails d p) p .malformed none none := by
  rw [burstFails_last p h]
  exact (giveOutcome_stored _ d p none none (by decide)).congr (burstCounted_keeps s d) (changesOnly_refl _ _)

theorem burstFails_last_counted (h : 2 ≤ (s.decoder d).failed) :
    s.counted (s.burstFails d p) [.idFailedBursts, .idMalformed] := by
  rw [burstFails_last p h]
  exact counted_snoc (burstCounted_counted s d) (by simp) (giveOutcome_counted _ d p none none (by decide))

theorem burstFails_last_freed (h : 2 ≤ (s.decoder d).failed) : s.decoderFreed (s.burstFails d p) d := by
  rw [burstFails_last p h]
  exact decoderFreed_congr (giveOutcome_freed _ d p none none (by decide)) rfl
    (fun _ he => burstCounted_decoder_of_ne s he)

/-- A failed burst leaves every other port's record as it was. -/
theorem burstFails_others {q : PortNo} (hq : q ≠ p) : (s.burstFails d p).record q = s.record q := by
  by_cases h : (s.decoder d).failed < 2
  · rw [burstFails_early p h]; rfl
  · exact (burstFails_last_stored p (by omega)).others q hq

end burstFails

theorem burstChecks_iff (bits : List Bool) :
    burstChecks bits = true ↔ bitsToNat ((bits.drop 12).take 4) = codeCheck (burstCode bits) := by
  simp [burstChecks]

section judgeBurst
variable {s : State} {d : DecNo} {p : PortNo}

theorem judgeBurst_verified (h : burstChecks (s.decoder d).bits = true)
    (hc : burstCode (s.decoder d).bits = (s.entryInUse p).code) :
    s.judgeBurst d p = s.giveOutcome d p .verified (some (burstCode (s.decoder d).bits)) none := by
  simp only [State.judgeBurst, h, hc, if_true]

theorem judgeBurst_mismatch (h : burstChecks (s.decoder d).bits = true)
    (hc : burstCode (s.decoder d).bits ≠ (s.entryInUse p).code) :
    s.judgeBurst d p =
      s.giveOutcome d p .mismatch (some (burstCode (s.decoder d).bits)) (s.indexed (burstCode (s.decoder d).bits)) := by
  simp only [State.judgeBurst, h, hc, if_true, if_false]

theorem judgeBurst_fails (h : ¬ burstChecks (s.decoder d).bits = true) : s.judgeBurst d p = s.burstFails d p := by
  simp only [State.judgeBurst, if_neg h]

/-- Judging a burst leaves every other port's record as it was. -/
theorem judgeBurst_others {q : PortNo} (hq : q ≠ p) : (s.judgeBurst d p).record q = s.record q := by
  by_cases h : burstChecks (s.decoder d).bits = true
  · by_cases hc : burstCode (s.decoder d).bits = (s.entryInUse p).code
    · rw [judgeBurst_verified h hc]; exact (giveOutcome_stored s d p _ _ (by decide)).others q hq
    · rw [judgeBurst_mismatch h hc]; exact (giveOutcome_stored s d p _ _ (by decide)).others q hq
  · rw [judgeBurst_fails h]; exact burstFails_others p hq

end judgeBurst

/-- Settles O27: the runs of bits timed into a burst, by the decoder's state and phase, and the burst judged. -/
theorem burstsAreJudged : Obligations.BurstsAreJudged := by
  refine ⟨fun g bit d => ⟨take_first, fun hsame => ?_, fun b hp hb => ?_⟩, fun s d p hpend => ?_⟩
  · rw [take_same hsame]
    refine ⟨runOn_hunt, runOn_start, fun hst => ?_⟩
    intro most
    have hmost : g.longestRun d.phase = most := by cases hph : d.phase <;> simp [most, hph, Sect.longestRun]
    rw [runOn_bits hst, hmost]
    exact ⟨fun hle => if_neg (by omega), fun hlt => if_pos hlt⟩
  · rw [take_differs hp hb]
    refine ⟨fun hst hbit => hbit ▸ runEnd_hunt_broken hst, fun hst hbit => hbit ▸ runEnd_hunt_made hst,
      fun hst => ?_, fun hst hph => ?_, fun hst hph => ?_⟩
    · rw [runEnd_start (d := { d with previous := some bit }) hst]
      exact ⟨fun hin => if_pos hin, fun hout => if_neg hout⟩
    · rw [runEnd_make (d := { d with previous := some bit }) hst hph]
      exact ⟨fun hin => if_pos hin, fun hout => if_neg hout⟩
    · intro zero one
      have hbreak : g.breakBit d.run = if (zero || one) = true then some (!zero) else none := breakBit_eq g d.run
      refine ⟨fun hin hi => ?_, fun hin hi => ?_, fun hout => ?_⟩
      · rw [if_pos hin] at hbreak
        rw [runEnd_break_bit (d := { d with previous := some bit }) hst hph hbreak]
        exact if_pos (Nat.succ_lt_succ hi)
      · rw [if_pos hin] at hbreak
        rw [runEnd_break_bit (d := { d with previous := some bit }) hst hph hbreak, if_neg (by simp [hi])]
        exact ⟨rfl, rfl, rfl⟩
      · rw [if_neg (by simp [hout])] at hbreak
        exact runEnd_break_fails (d := { d with previous := some bit }) hst hph hbreak
  · intro bits code right t
    have hright : right ↔ burstChecks bits = true := (burstChecks_iff bits).symm
    refine ⟨fun hr hc => ?_, fun hr hc => ?_, fun hr hf => ?_, fun hr hf => ?_, fun q hq => judgeBurst_others hq⟩
    · have ht : t = s.giveOutcome d p .verified (some code) none := judgeBurst_verified (hright.mp hr) hc
      have hstored := giveOutcome_stored s d p (some code) none (o := .verified) (by decide)
      rw [ht]
      exact ⟨hstored.pending hpend, hstored.told, giveOutcome_counted s d p _ _ (by decide),
        giveOutcome_freed s d p _ _ (by decide)⟩
    · have ht : t = s.giveOutcome d p .mismatch (some code) (s.indexed code) := judgeBurst_mismatch (hright.mp hr) hc
      have hstored := giveOutcome_stored s d p (some code) (s.indexed code) (o := .mismatch) (by decide)
      rw [ht]
      exact ⟨hstored.pending hpend, hstored.told, giveOutcome_counted s d p _ _ (by decide),
        giveOutcome_freed s d p _ _ (by decide)⟩
    · have ht : t = s.burstCounted d := (judgeBurst_fails (mt hright.mpr hr)).trans (burstFails_early p hf)
      rw [ht]
      exact ⟨rfl, rfl, burstCounted_counted s d, burstCounted_decoder s d, rfl,
        fun e he => burstCounted_decoder_of_ne s he⟩
    · have ht : t = s.burstFails d p := judgeBurst_fails (mt hright.mpr hr)
      have hstored := burstFails_last_stored p hf
      rw [ht]
      exact ⟨hstored.pending hpend, hstored.told, burstFails_last_counted p hf, burstFails_last_freed p hf⟩

end Sys2Proof.Machine
end

section
/-! PROOFS. The Channel Agent and the Voice Conditioner where a count of one channel has run out: the timers of the
channel map (R69, R72, R75), the withdrawal of an unattached entry (R73), and the two counts of voice (R113, R116). -/

namespace Sys2Proof.Machine

/-! ### One channel alone -/

/-- From `s` to `t` the entry of channel `c` became `e` and counter `k` rose; no other entry, not the holdoff, and no
other block moved. -/
def State.entryBecomes (s t : State) (c : ChanNo) (e : ChanEntry) (k : Counter) : Prop :=
  t.chan c = e ∧ t.cha.holdoff = s.cha.holdoff ∧ (∀ d, d ≠ c → t.chan d = s.chan d) ∧ s.counted t [k] ∧
    s.changesOnly t [.cha, .counters]

theorem modChan_bump_keeps (s : State) (c : ChanNo) (f : ChanEntry → ChanEntry) (k : Counter) :
    s.changesOnly ((s.modChan c f).bump k) [.cha, .counters] :=
  changesOnly_trans (changesOnly_mono (modChan_keeps s c f) (by simp)) (changesOnly_mono (bump_keeps _ k) (by simp))

theorem modChan_bump_entryBecomes (s : State) (c : ChanNo) (e : ChanEntry) (k : Counter) :
    s.entryBecomes ((s.modChan c (fun _ => e)).bump k) c e k :=
  ⟨State.modChan_chan_self s c _, rfl, fun _ hd => State.modChan_chan_of_ne s c _ hd,
    bump_counted (s.modChan c fun _ => e) k, modChan_bump_keeps s c _ k⟩

/-- From `s` to `t` VCN's items for channel `c` became `v`; those of no other channel, no uplink sample and no other
block moved. -/
def State.voiceBecomes (s t : State) (c : ChanNo) (v : VoiceChannel) : Prop :=
  t.voice c = v ∧ (∀ d, d ≠ c → t.voice d = s.voice d) ∧ t.vcn.uplink = s.vcn.uplink ∧ s.changesOnly t [.vcn]

theorem modVoice_voiceBecomes (s : State) (c : ChanNo) (f : VoiceChannel → VoiceChannel) :
    s.voiceBecomes (s.modVoice c f) c (f (s.voice c)) :=
  ⟨State.modVoice_voice_self s c f, fun _ hd => State.modVoice_voice_of_ne s c f hd, rfl, modVoice_keeps s c f⟩

/-! ### The timers (R69, R72, R75) -/

section timers
variable {s : State} {c : ChanNo} (htimer : (s.chan c).timer = 0)
include htimer

theorem exec_claimTimeout (hst : (s.chan c).state = .claimed) :
    exec (.claimTimeout c) s =
      let u := (s.modChan c (fun _ => {})).bump .claimTimeouts
      .next { u with cha := { u.cha with holdoff := 16 } } :=
  congrArg Host.Outcome.next (if_pos ⟨hst, htimer⟩)

theorem exec_releaseTimeout (hst : (s.chan c).state = .releasing) :
    exec (.releaseTimeout c) s = .next ((s.modChan c (fun _ => {})).bump .releaseTimeouts) :=
  congrArg Host.Outcome.next (if_pos ⟨hst, htimer⟩)

theorem exec_assignmentExpiry (hst : (s.chan c).state = .bound) (hp : (s.chan c).port = none) :
    exec (.assignmentExpiry c) s = .next ((s.modChan c (fun _ => s.releasing)).bump .assignmentsExpired) :=
  congrArg Host.Outcome.next (if_pos ⟨hst, hp, htimer⟩)

end timers

/-- Loading the claim holdoff moves nothing beside it. -/
theorem entryBecomes_holdoff {s u : State} {c : ChanNo} {e : ChanEntry} {k : Counter} (h : s.entryBecomes u c e k)
    (n : Nat) :
    let t : State := { u with cha := { u.cha with holdoff := n } }
    t.chan c = e ∧ t.cha.holdoff = n ∧ (∀ d, d ≠ c → t.chan d = s.chan d) ∧ s.counted t [k] ∧
      s.changesOnly t [.cha, .counters] := by
  obtain ⟨hself, -, hothers, hcount, hkeep⟩ := h
  refine ⟨hself, rfl, hothers, hcount, changesOnly_trans hkeep fun b hb => ?_⟩
  cases b <;> simp_all [State.sameIn]

/-! ### Withdrawals (R73) -/

/-- A sweep that selects no entry changes nothing. -/
theorem forChans_dropChan_none {sel : ChanEntry → Bool} {s : State} {l : List ChanNo}
    (h : ∀ d ∈ l, sel (s.chan d) = false) : forChans l (State.dropChan sel) s = s := by
  induction l with
  | nil => rfl
  | cons d l ih =>
    have hd : State.dropChan sel d s = s := by simp [State.dropChan, h d (by simp)]
    change forChans l (State.dropChan sel) (State.dropChan sel d s) = s
    rw [hd]
    exact ih fun d hd => h d (by simp [hd])

/-- A sweep that selects one entry, BOUND, makes it NONE and counts it. -/
theorem forChans_dropChan_one {sel : ChanEntry → Bool} {s : State} {c : ChanNo} {l : List ChanNo} (hc : c ∈ l)
    (hst : (s.chan c).state = .bound) (hsel : sel (s.chan c) = true) (hnone : sel {} = false)
    (hothers : ∀ d, d ≠ c → sel (s.chan d) = false) :
    forChans l (State.dropChan sel) s = (s.modChan c (fun _ => {})).bump .withdrawals := by
  induction l with
  | nil => cases hc
  | cons d l ih =>
    change forChans l (State.dropChan sel) (State.dropChan sel d s) = _
    by_cases hd : d = c
    · subst hd
      have hdrop : State.dropChan sel d s = (s.modChan d (fun _ => {})).bump .withdrawals := by
        simp [State.dropChan, hsel, hst]
      rw [hdrop]
      refine forChans_dropChan_none fun e _ => ?_
      by_cases he : e = d
      · subst he; simpa using hnone
      · simpa [State.modChan_chan_of_ne s d _ he] using hothers e he
    · have hdrop : State.dropChan sel d s = s := by simp [State.dropChan, hothers d hd]
      rw [hdrop]
      exact ih ((List.mem_cons.mp hc).resolve_left fun h => hd h.symm)

theorem mem_allChans (c : ChanNo) : c ∈ allChans := by revert c; decide

/-- With no call waiting nothing is attached (R72). -/
theorem attachLoop_of_queue_nil (k : Nat) {s : State} (h : s.ccl.queue = []) : State.attachLoop k s = s := by
  cases k <;> simp [State.attachLoop, h]

theorem channelsLost_nil {s : State} (h : s.ccl.queue = []) : s.channelsLost [] = s :=
  attachLoop_of_queue_nil 20 (s := s) h

/-- The entries that a WITHDRAWAL drops (R73). -/
def ChanEntry.withdraws (e : ChanEntry) : Bool := decide (e.state = .bound) && e.withdrawDue

/-- A port is named only where a selected BOUND entry is attached to it. -/
theorem attachedTo_eq_nil {s : State} {sel : ChanEntry → Bool} (h : ∀ c, sel (s.chan c) = true → (s.chan c).port = none) :
    s.attachedTo sel = [] := by
  refine List.filter_eq_nil_iff.mpr fun p _ hany => ?_
  obtain ⟨c, -, hc⟩ := List.any_eq_true.mp hany
  simp only [Bool.and_eq_true, decide_eq_true_eq] at hc
  obtain ⟨⟨hsel, -⟩, hport⟩ := hc
  rw [h c hsel] at hport
  cases hport

/-- WITHDRAWAL of one unattached entry, with no call waiting (R73). -/
theorem exec_withdrawal_unattached {s : State} {c : ChanNo} (hq : s.ccl.queue = [])
    (hst : (s.chan c).state = .bound) (hport : (s.chan c).port = none) (hdue : (s.chan c).withdrawDue = true)
    (hothers : ∀ d, d ≠ c → (s.chan d).state = .bound → (s.chan d).withdrawDue = false) :
    exec .withdrawal s = .next ((s.modChan c (fun _ => {})).bump .withdrawals) := by
  have hsel : (s.chan c).withdraws = true := by simp [ChanEntry.withdraws, hst, hdue]
  have hrest : ∀ d, d ≠ c → (s.chan d).withdraws = false := fun d hd => by
    simpa [ChanEntry.withdraws] using hothers d hd
  have hwd : s.withdrawalDue = true := List.any_eq_true.mpr ⟨c, mem_allChans c, hsel⟩
  have hlost : s.attachedTo ChanEntry.withdraws = [] := attachedTo_eq_nil fun d hd => by
    by_cases hdc : d = c
    · rw [hdc, hport]
    · rw [hrest d hdc] at hd; cases hd
  have hdrop : s.dropChans ChanEntry.withdraws = (s.modChan c (fun _ => {})).bump .withdrawals := by
    rw [State.dropChans, hlost, forChans_dropChan_one (mem_allChans c) hst hsel rfl hrest]
    exact channelsLost_nil hq
  exact (congrArg Host.Outcome.next (if_pos hwd)).trans (congrArg Host.Outcome.next hdrop)

/-! ### The counts of voice (R113, R116) -/

theorem exec_agcBlock {s : State} {c : ChanNo} (hblock : (s.voice c).block = 64) (hagc : s.sect.agcEnable = true) :
    exec (.agcBlock c) s = .next (s.modVoice c (VoiceChannel.judged s.sect)) :=
  congrArg Host.Outcome.next (if_pos ⟨hblock, hagc⟩)

theorem exec_missingCountFull {s : State} {c : ChanNo} (hst : (s.chan c).state = .bound)
    (hport : (s.chan c).port ≠ none) (hmissing : (s.voice c).missing = 16) (hlast : (s.voice c).lastDown ≠ 0) :
    exec (.missingCountFull c) s = .next (s.modVoice c (fun v => { v with lastDown := 0 })) := by
  have hfull : s.missingFull c = true := by
    simp [State.missingFull, ChanEntry.attached, hst, Option.isSome_iff_ne_none.mpr hport, hmissing,
      Config.missingFrames, hlast]
  exact congrArg Host.Outcome.next (if_pos hfull)

/-- Settles O38: each timeout, the withdrawal of an unattached entry, and the two counts of voice move their channel
alone. -/
theorem channelCountsRunOut : Obligations.ChannelCountsRunOut := by
  refine ⟨fun s c htimer => ⟨fun hst => ?_, fun hst => ?_, fun hst hport => ?_⟩, ?_, ?_⟩
  · exact ⟨_, exec_claimTimeout htimer hst,
      entryBecomes_holdoff (modChan_bump_entryBecomes s c {} .claimTimeouts) 16⟩
  · exact ⟨_, exec_releaseTimeout htimer hst, modChan_bump_entryBecomes s c {} .releaseTimeouts⟩
  · exact ⟨_, exec_assignmentExpiry htimer hst hport,
      modChan_bump_entryBecomes s c s.releasing .assignmentsExpired⟩
  · intro s c hq hst hport hdue hothers
    exact ⟨_, exec_withdrawal_unattached hq hst hport hdue hothers,
      modChan_bump_entryBecomes s c {} .withdrawals⟩
  · intro s c
    exact ⟨fun hblock hagc => ⟨_, exec_agcBlock hblock hagc, modVoice_voiceBecomes s c (VoiceChannel.judged s.sect)⟩,
      fun hst hport hmissing hlast => ⟨_, exec_missingCountFull hst hport hmissing hlast,
        modVoice_voiceBecomes s c (fun v => { v with lastDown := 0 })⟩⟩

end Sys2Proof.Machine
end

section
/-! PROOFS. The fields of a ring frame: what reading a tag or a voice field gives after one was written (13.1, 13.2). -/

namespace Sys2Proof.Machine

/-! ### Bytes and words of a block -/

theorem byteAt_putByte_self {n : Nat} (v : Vector Byte n) {i : Nat} (b : Byte) (h : i < n) :
    byteAt (putByte v i b) i = b := by
  simp [byteAt, putByte, h]

theorem byteAt_putByte_of_ne {n : Nat} (v : Vector Byte n) {i j : Nat} (b : Byte) (h : j ≠ i) :
    byteAt (putByte v i b) j = byteAt v j := by
  simp [byteAt, putByte, Vector.getElem?_setIfInBounds_ne (Ne.symm h)]

theorem byteAt_putWord_of_ne {n : Nat} (v : Vector Byte n) {i j : Nat} (w : Word) (h : j ≠ i) (h' : j ≠ i + 1) :
    byteAt (putWord v i w) j = byteAt v j := by
  rw [putWord, byteAt_putByte_of_ne _ _ h', byteAt_putByte_of_ne _ _ h]

theorem upper_append_lower (w : Word) : upper w ++ lower w = w :=
  (BitVec.extractLsb'_append_extractLsb'_eq_extractLsb' (x := w) rfl).trans BitVec.extractLsb'_eq_self

theorem wordAt_putWord_self {n : Nat} (v : Vector Byte n) {i : Nat} (w : Word) (h : i + 1 < n) :
    wordAt (putWord v i w) i = w := by
  have hup : byteAt (putWord v i w) i = upper w := by
    rw [putWord, byteAt_putByte_of_ne _ _ (by omega), byteAt_putByte_self _ _ (by omega)]
  have hlow : byteAt (putWord v i w) (i + 1) = lower w := byteAt_putByte_self _ _ h
  rw [wordAt, hup, hlow, upper_append_lower]

/-! ### Tags and voice fields -/

theorem TagKind.ofByte_code (k : TagKind) : TagKind.ofByte k.code = k := by cases k <;> rfl

theorem byteAt_putTag_of_ne (f : Frame) (c : ChanNo) (t : Tag) {j : Nat} (h : j ≠ 5 + 2 * c.val)
    (h' : j ≠ 6 + 2 * c.val) : byteAt (putTag f c t) j = byteAt f j := by
  rw [putTag, byteAt_putByte_of_ne _ _ h', byteAt_putByte_of_ne _ _ h]

/-- A tag reads as it was written: its kind has its own code, and its number fits the low six bits. -/
@[simp] theorem tagOf_putTag_self (f : Frame) (c : ChanNo) (t : Tag) : tagOf (putTag f c t) c = t := by
  have hc := c.isLt
  have hkind : byteAt (putTag f c t) (5 + 2 * c.val) = t.kind.code := by
    rw [putTag, byteAt_putByte_of_ne _ _ (by omega), byteAt_putByte_self _ _ (by omega)]
  have hnode : byteAt (putTag f c t) (6 + 2 * c.val) = t.node.zeroExtend 8 := byteAt_putByte_self _ _ (by omega)
  have hlow : (t.node.zeroExtend 8).extractLsb' 0 6 = t.node := by
    rw [← BitVec.setWidth_eq_extractLsb' (by decide)]; simp
  rw [tagOf, hkind, hnode, hlow, TagKind.ofByte_code]

theorem tagOf_putTag_of_ne (f : Frame) {c d : ChanNo} (t : Tag) (h : d ≠ c) : tagOf (putTag f c t) d = tagOf f d := by
  have hne : d.val ≠ c.val := fun e => h (Fin.ext e)
  simp only [tagOf, byteAt_putTag_of_ne f c t (j := 5 + 2 * d.val) (by omega) (by omega),
    byteAt_putTag_of_ne f c t (j := 6 + 2 * d.val) (by omega) (by omega)]

/-- The tags stand in bytes 5 to 44 and the voice fields in bytes 45 to 84. -/
@[simp] theorem voiceOf_putTag (f : Frame) (c : ChanNo) (t : Tag) (d : ChanNo) :
    voiceOf (putTag f c t) d = voiceOf f d := by
  have hc := c.isLt
  simp only [voiceOf, wordAt, byteAt_putTag_of_ne f c t (j := 45 + 2 * d.val) (by omega) (by omega),
    byteAt_putTag_of_ne f c t (j := 45 + 2 * d.val + 1) (by omega) (by omega)]

@[simp] theorem tagOf_putVoice (f : Frame) (c : ChanNo) (x : Int) (d : ChanNo) :
    tagOf (putVoice f c x) d = tagOf f d := by
  have hd := d.isLt
  simp only [tagOf, putVoice, byteAt_putWord_of_ne f (i := 45 + 2 * c.val) (j := 5 + 2 * d.val) _ (by omega) (by omega),
    byteAt_putWord_of_ne f (i := 45 + 2 * c.val) (j := 6 + 2 * d.val) _ (by omega) (by omega)]

theorem voiceOf_putVoice_of_ne (f : Frame) {c d : ChanNo} (x : Int) (h : d ≠ c) :
    voiceOf (putVoice f c x) d = voiceOf f d := by
  have hne : d.val ≠ c.val := fun e => h (Fin.ext e)
  simp only [voiceOf, wordAt, putVoice,
    byteAt_putWord_of_ne f (i := 45 + 2 * c.val) (j := 45 + 2 * d.val) _ (by omega) (by omega),
    byteAt_putWord_of_ne f (i := 45 + 2 * c.val) (j := 45 + 2 * d.val + 1) _ (by omega) (by omega)]

/-- A sample that the part may send reads as it was written (R117). -/
theorem voiceOf_putVoice_self (f : Frame) (c : ChanNo) {x : Int} (h : sampleOk x) :
    voiceOf (putVoice f c x) c = x := by
  have hc := c.isLt
  obtain ⟨hlo, hhi⟩ := h
  rw [voiceOf, putVoice, wordAt_putWord_self _ _ (by omega)]
  exact BitVec.toInt_ofInt_eq_self (by decide) (by omega) (by omega)

end Sys2Proof.Machine
end

section
/-! PROOFS. The Channel Agent's part of a processed frame (chapter 4): what an arriving tag does to its entry and to the
frame, what an offer of a channel to the head of the queue leaves, the exchange of voice, and the claim decision. -/

namespace Sys2Proof.Machine

/-! ### Tags that name this node (R65) -/

/-- A tag GRANT(self). -/
def State.grants (s : State) (t : Tag) : Prop := t.kind = .grant ∧ t.node = s.straps

/-- A tag CLAIM(self) or RELEASE(self), which another node of the same number sent (R65). -/
def State.conflicts (s : State) (t : Tag) : Prop := t.node = s.straps ∧ (t.kind = .claim ∨ t.kind = .release)

theorem isSelf_iff {s : State} {k : TagKind} {t : Tag} : s.isSelf k t = true ↔ t.kind = k ∧ t.node = s.straps := by
  rw [State.isSelf, Bool.and_eq_true, decide_eq_true_eq, decide_eq_true_eq, State.self]

theorem isSelf_grant_iff {s : State} {t : Tag} : s.isSelf .grant t = true ↔ s.grants t := isSelf_iff

theorem conflicts_iff {s : State} {t : Tag} :
    (s.isSelf .claim t || s.isSelf .release t) = true ↔ s.conflicts t := by
  rw [Bool.or_eq_true, isSelf_iff, isSelf_iff, State.conflicts]
  tauto

theorem not_grants_of_conflicts {s : State} {t : Tag} (h : s.conflicts t) : ¬ s.grants t := by
  rintro ⟨hg, -⟩
  obtain ⟨-, hk | hk⟩ := h <;> rw [hk] at hg <;> cases hg

theorem not_conflicts_of_kind {s : State} {t : Tag} (h : t.kind ≠ .claim) (h' : t.kind ≠ .release) :
    ¬ s.conflicts t := fun hc => hc.2.elim h h'

/-! ### A duplicate number noted (R65, R97) -/

/-- From `s` to `t` NUMBER-CONFLICT was set and the NODE entry listed; in BYPASS, and where the flag was set already, SGU
was told nothing (R97, R98). -/
def State.conflictTold (s t : State) : Prop :=
  (s.inBypass = true ∨ s.sgu.flags.numberConflict = true → t.sgu = s.sgu) ∧
  (s.inBypass = false → s.sgu.flags.numberConflict = false →
    t.sgu.flags = { s.sgu.flags with numberConflict := true } ∧ t.listedAfresh .node ∧
      ∀ k, k ≠ .node → entryOf t.sgu.reports k = entryOf s.sgu.reports k)

theorem noteConflict_of_conflicts {s : State} {t : Tag} (h : s.conflicts t) :
    s.noteConflict t = (s.bump .numberConflicts).setNodeFlag NodeFlags.numberConflict
      (fun x => { x with numberConflict := true }) := if_pos (conflicts_iff.mpr h)

theorem noteConflict_of_not_conflicts {s : State} {t : Tag} (h : ¬ s.conflicts t) : s.noteConflict t = s :=
  if_neg (mt conflicts_iff.mp h)

theorem noteConflict_keeps (s : State) (t : Tag) : s.changesOnly (s.noteConflict t) [.sgu, .counters] :=
  changesOnly_ite (changesOnly_trans (changesOnly_mono (bump_keeps s _) (by simp))
    (changesOnly_mono (setNodeFlag_keeps _ _ _) (by simp))) (changesOnly_refl s _)

@[simp] theorem noteConflict_cha (s : State) (t : Tag) : (s.noteConflict t).cha = s.cha :=
  changesOnly_cha (noteConflict_keeps s t) (by simp)
@[simp] theorem noteConflict_prc (s : State) (t : Tag) : (s.noteConflict t).prc = s.prc :=
  changesOnly_prc (noteConflict_keeps s t) (by simp)
@[simp] theorem noteConflict_straps (s : State) (t : Tag) : (s.noteConflict t).straps = s.straps :=
  changesOnly_straps (noteConflict_keeps s t) (by simp)
@[simp] theorem noteConflict_chan (s : State) (t : Tag) (c : ChanNo) : (s.noteConflict t).chan c = s.chan c := by
  simp only [State.chan, noteConflict_cha]
@[simp] theorem noteConflict_sect (s : State) (t : Tag) : (s.noteConflict t).sect = s.sect := by
  simp only [State.sect, changesOnly_tbs (noteConflict_keeps s t) (by simp)]
@[simp] theorem noteConflict_grants (s : State) (t u : Tag) : (s.noteConflict t).grants u ↔ s.grants u := by
  simp only [State.grants, noteConflict_straps]
@[simp] theorem noteConflict_conflicts (s : State) (t u : Tag) : (s.noteConflict t).conflicts u ↔ s.conflicts u := by
  simp only [State.conflicts, noteConflict_straps]

theorem noteConflict_counted {s : State} {t : Tag} (h : s.conflicts t) :
    s.counted (s.noteConflict t) [.numberConflicts] := by
  rw [noteConflict_of_conflicts h]
  exact counted_of_counters_eq (bump_counted s _) (changesOnly_counters (setNodeFlag_keeps _ _ _) (by simp))

theorem noteConflict_told {s : State} {t : Tag} (h : s.conflicts t) : s.conflictTold (s.noteConflict t) := by
  rw [noteConflict_of_conflicts h]
  refine ⟨fun hno => ?_, fun hbyp hflag => ?_⟩
  · rw [State.setNodeFlag, if_pos (by simpa using hno)]
    rfl
  · rw [State.setNodeFlag, if_neg (by simp [hbyp, hflag])]
    obtain ⟨hlisted, hothers, hsgu⟩ := (listEntry_listsOnly
      { s.bump .numberConflicts with sgu := { s.sgu with flags := { s.sgu.flags with numberConflict := true } } }
      .node).1 hbyp
    exact ⟨congrArg Sgu.flags hsgu, hlisted, hothers⟩

/-! ### A channel offered to the head of the queue (R48, R70, R72) -/

/-- The record of port `p` as an offer of channel `c` leaves it (R48). -/
def State.offeredRecord (s : State) (c : ChanNo) (p : PortNo) : CallRecord :=
  { s.record p with
    state := .offered, channel := some c, lastChannel := some c, announced := true, time := 0 }

/-- From `s` and frame `f` to `r` channel `c` was bound and attached to port `p`, which was offered and left the queue;
the frame, every other record and every other entry stayed (R48, R72, R110). -/
def State.offersTo (s : State) (f : Frame) (r : State × Frame) (c : ChanNo) (p : PortNo) : Prop :=
  r.2 = f ∧ r.1.chan c = { state := .bound, port := some p } ∧ r.1.voice c = { gain := s.sect.aInit } ∧
    r.1.record p = s.offeredRecord c p ∧ r.1.ccl.queue = s.ccl.queue.filter (fun q => !decide (q = p)) ∧
    (s.inBypass = false → r.1.listedAfresh (.call p)) ∧
    (∀ q, q ≠ p → r.1.record q = s.record q) ∧ ∀ d, d ≠ c → r.1.chan d = s.chan d

theorem attach_chan_self (s : State) (c : ChanNo) (p : PortNo) :
    (s.attach c p).chan c = { s.chan c with port := some p, timer := 0 } := by
  simp [State.attach, State.bindVoice]

theorem attach_chan_of_ne (s : State) {c d : ChanNo} (p : PortNo) (h : d ≠ c) : (s.attach c p).chan d = s.chan d := by
  simp [State.attach, State.bindVoice, State.modChan_chan_of_ne s c _ h]

theorem attach_voice_self (s : State) (c : ChanNo) (p : PortNo) :
    (s.attach c p).voice c = { gain := s.sect.aInit } := by
  simp [State.attach, State.bindVoice]

section offer
variable {s : State} (c : ChanNo) {p : PortNo} (hw : (s.record p).state = .waiting)
include hw

/-- An offer to a waiting port: its record moves, the other blocks follow, and its CALL entry is listed (R42, R48). -/
theorem offer_eq :
    s.offer c p =
      (((s.leaveQueue p).modRecord p (fun _ => s.offeredRecord c p)).stateChanged p .waiting).listEntry (.call p) := by
  generalize hu : ((s.leaveQueue p).modRecord p (fun _ => s.offeredRecord c p)).stateChanged p .waiting = u
  have hrec : u.record p = s.offeredRecord c p := by
    rw [← hu]
    simp only [State.record, changesOnly_ccl (stateChanged_keeps _ p .waiting) (by simp)]
    exact State.modRecord_record_self _ p _
  have hset : s.offer c p = u.reportChange p (s.record p) := by
    rw [← hu]
    simp [State.offer, State.setRecord, hw, State.offeredRecord]
  rw [hset]
  simp [State.reportChange, hrec, State.offeredRecord, CallState.unlists, CallRecord.reportDiffers, hw]

theorem offer_vcn : (s.offer c p).vcn = s.vcn := by
  rw [offer_eq c hw, changesOnly_vcn (listEntry_keeps _ _) (by simp), changesOnly_vcn (stateChanged_keeps _ p _) (by simp)]
  rfl

theorem offer_ccl :
    (s.offer c p).ccl = ((s.leaveQueue p).modRecord p (fun _ => s.offeredRecord c p)).ccl := by
  rw [offer_eq c hw, changesOnly_ccl (listEntry_keeps _ _) (by simp), changesOnly_ccl (stateChanged_keeps _ p _) (by simp)]

theorem offer_listedAfresh (hbyp : s.inBypass = false) : (s.offer c p).listedAfresh (.call p) := by
  rw [offer_eq c hw]
  refine ((listEntry_listsOnly _ _).1 ?_).1
  simp only [State.inBypass, changesOnly_prc (stateChanged_keeps _ p .waiting) (by simp)]
  exact hbyp

end offer

/-- What the attachment and the offer do together, from an entry just BOUND. -/
theorem attach_offer_offersTo {s u : State} {c : ChanNo} {p : PortNo} (f : Frame) {n : Nat}
    (hkeep : s.changesOnly u [.cha, .counters]) (hself : u.chan c = { state := .bound, timer := n })
    (hothers : ∀ d, d ≠ c → u.chan d = s.chan d) (hw : (s.record p).state = .waiting) :
    s.offersTo f ((u.attach c p).offer c p, f) c p := by
  have hccl : (u.attach c p).ccl = s.ccl :=
    (changesOnly_ccl (attach_keeps u c p) (by simp)).trans (changesOnly_ccl hkeep (by simp))
  have hbyp : (u.attach c p).inBypass = s.inBypass := by
    simp only [State.inBypass, changesOnly_prc (attach_keeps u c p) (by simp), changesOnly_prc hkeep (by simp)]
  have hrec : ∀ q, (u.attach c p).record q = s.record q := fun q => by simp only [State.record, hccl]
  have hchan : ∀ d, ((u.attach c p).offer c p).chan d = (u.attach c p).chan d := fun d => by
    simp only [State.chan, changesOnly_cha (offer_keeps _ c p) (by simp)]
  have hwait : ((u.attach c p).record p).state = .waiting := by rw [hrec, hw]
  refine ⟨rfl, ?_, ?_, ?_, ?_, fun hb => offer_listedAfresh c hwait (hbyp.trans hb), fun q hq => ?_, fun d hd => ?_⟩
  · rw [hchan, attach_chan_self, hself]
  · have hsect : u.sect = s.sect := by simp only [State.sect, changesOnly_tbs hkeep (by simp)]
    simp only [State.voice, offer_vcn c hwait]
    exact (attach_voice_self u c p).trans (by rw [hsect])
  · simp only [State.record, offer_ccl c hwait]
    refine (State.modRecord_record_self _ p _).trans ?_
    simp only [State.offeredRecord, hrec]
  · rw [offer_ccl c hwait, ← hccl]
    rfl
  · simp only [State.record, offer_ccl c hwait]
    exact (State.modRecord_record_of_ne _ p _ hq).trans (hrec q)
  · rw [hchan, attach_chan_of_ne u p hd, hothers d hd]

theorem attach_offer_counters (s : State) (c : ChanNo) (p : PortNo) :
    ((s.attach c p).offer c p).counters = s.counters :=
  (changesOnly_counters (offer_keeps _ c p) (by simp)).trans (changesOnly_counters (attach_keeps s c p) (by simp))

/-! ### A channel given back (R75) -/

/-- From `s` and frame `f` to `r` channel `c` became RELEASING and the frame carries RELEASE(self) and silence on it (R70,
R71, R75). -/
def State.givesBack (s : State) (f : Frame) (r : State × Frame) (c : ChanNo) : Prop :=
  r.1.chan c = { state := .releasing, timer := atLeastOne s.sect.releaseTimeout } ∧
    tagOf r.2 c = ⟨.release, s.straps⟩ ∧ voiceOf r.2 c = 0 ∧
    ∀ d, d ≠ c → tagOf r.2 d = tagOf f d ∧ voiceOf r.2 d = voiceOf f d

theorem writeRelease_fields (s : State) (c : ChanNo) (f : Frame) :
    tagOf (s.writeRelease c f) c = ⟨.release, s.straps⟩ ∧ voiceOf (s.writeRelease c f) c = 0 ∧
      ∀ d, d ≠ c → tagOf (s.writeRelease c f) d = tagOf f d ∧ voiceOf (s.writeRelease c f) d = voiceOf f d := by
  refine ⟨?_, voiceOf_putVoice_self _ c ⟨by decide, by decide⟩, fun d hd => ⟨?_, ?_⟩⟩
  · rw [State.writeRelease, tagOf_putVoice, tagOf_putTag_self]; rfl
  · rw [State.writeRelease, tagOf_putVoice, tagOf_putTag_of_ne _ _ hd]
  · rw [State.writeRelease, voiceOf_putVoice_of_ne _ _ hd, voiceOf_putTag]

/-! ### Unattached entries (R72) -/

/-- The only element of a list with a property is the one that a search finds. -/
theorem find?_eq_some_of_unique {α : Type} {l : List α} {q : α → Bool} {a : α} (ha : a ∈ l) (hq : q a = true)
    (h : ∀ b ∈ l, q b = true → b = a) : l.find? q = some a := by
  cases hf : l.find? q with
  | none => exact absurd hq (List.find?_eq_none.mp hf a ha)
  | some b => rw [h b (List.mem_of_find?_eq_some hf) (List.find?_some hf)]

theorem unattached_eq_none_iff {s : State} :
    s.unattached = none ↔ ∀ c, (s.chan c).state = .bound → (s.chan c).port ≠ none := by
  simp [State.unattached, List.find?_eq_none, mem_allChans]

theorem unattached_eq_some {s : State} {c : ChanNo} (hst : (s.chan c).state = .bound) (hport : (s.chan c).port = none)
    (h : ∀ d, d ≠ c → (s.chan d).state = .bound → (s.chan d).port ≠ none) : s.unattached = some c := by
  refine find?_eq_some_of_unique (mem_allChans c) (by simp [hst, hport]) fun d _ hd => ?_
  by_contra hne
  have hd : (s.chan d).state = .bound ∧ (s.chan d).port = none := by simpa using hd
  exact h d hne hd.1 hd.2

theorem attachLoop_of_unattached_none (k : Nat) {s : State} (h : s.unattached = none) : State.attachLoop k s = s := by
  cases k with
  | zero => rfl
  | succ k => cases hq : s.ccl.queue <;> simp [State.attachLoop, hq, h]

theorem attachLoop_succ (k : Nat) {s : State} {c : ChanNo} {p : PortNo} (hq : s.ccl.queue.head? = some p)
    (hun : s.unattached = some c) :
    State.attachLoop (k + 1) s = State.attachLoop k ((s.attach c p).offer c p) := by
  obtain ⟨rest, hq⟩ := List.head?_eq_some_iff.mp hq
  simp only [State.attachLoop, hq, hun]

/-- With a call waiting and one unattached entry, that entry alone is attached, to the head (R72). -/
theorem attachWaiting_one {s : State} {c : ChanNo} {p : PortNo} (hq : s.ccl.queue.head? = some p)
    (hun : s.unattached = some c) (hafter : ((s.attach c p).offer c p).unattached = none) :
    s.attachWaiting = (s.attach c p).offer c p := by
  rw [State.attachWaiting, attachLoop_succ 19 hq hun, attachLoop_of_unattached_none 19 hafter]

/-! ### A tag on a NONE entry (R71, R72) -/

section tagNone
variable {s : State} {c : ChanNo} {t : Tag} {f : Frame}

theorem tagNone_of_not_grants (h : ¬ s.grants t) : s.tagNone c t f = (s, f) := if_neg (mt isSelf_grant_iff.mp h)

theorem tagNone_refused (h : s.grants t) (hquota : min s.sect.quota 8 ≤ s.heldChannels) :
    s.tagNone c t f = ((s.modChan c (fun _ => s.releasing)).bump .assignmentsRefused, s.writeRelease c f) := by
  rw [State.tagNone, if_pos (isSelf_grant_iff.mpr h)]
  exact if_neg (Nat.not_lt.mpr hquota)

/-- The entry of an assignment taken, before it is attached (R71). -/
def State.assigned (s : State) : ChanEntry := { state := .bound, timer := atLeastOne s.sect.assignTimeout }

theorem tagNone_taken (h : s.grants t) (hquota : s.heldChannels < min s.sect.quota 8) :
    s.tagNone c t f = ((s.modChan c (fun _ => s.assigned)).attachWaiting, f) := by
  rw [State.tagNone, if_pos (isSelf_grant_iff.mpr h)]
  exact if_pos hquota

theorem tagNone_unattached (h : s.grants t) (hquota : s.heldChannels < min s.sect.quota 8) (hq : s.ccl.queue = []) :
    s.tagNone c t f = (s.modChan c (fun _ => s.assigned), f) := by
  rw [tagNone_taken h hquota]
  exact congrArg (·, f) (attachLoop_of_queue_nil 20 hq)

theorem tagNone_attached {p : PortNo} (h : s.grants t) (hquota : s.heldChannels < min s.sect.quota 8)
    (hq : s.ccl.queue.head? = some p) (hw : (s.record p).state = .waiting) (hun : s.unattached = none) :
    s.offersTo f (s.tagNone c t f) c p ∧ s.counted (s.tagNone c t f).1 [] := by
  generalize hu : s.modChan c (fun _ => s.assigned) = u
  have hself : u.chan c = s.assigned := by rw [← hu]; exact State.modChan_chan_self s c _
  have hothers : ∀ d, d ≠ c → u.chan d = s.chan d := fun d hd => by
    rw [← hu]; exact State.modChan_chan_of_ne s c _ hd
  have hkeep : s.changesOnly u [.cha, .counters] := by
    rw [← hu]; exact changesOnly_mono (modChan_keeps s c _) (by simp)
  have hoffer := attach_offer_offersTo f hkeep hself hothers hw
  have hport : ∀ d, d ≠ c → (s.chan d).state = .bound → (s.chan d).port ≠ none :=
    fun d _ => unattached_eq_none_iff.mp hun d
  have hone : u.unattached = some c := unattached_eq_some (by rw [hself]; rfl) (by rw [hself]; rfl)
    fun d hd => by rw [hothers d hd]; exact hport d hd
  have hafter : ((u.attach c p).offer c p).unattached = none := by
    obtain ⟨-, hc, -, -, -, -, -, hrest⟩ := hoffer
    refine unattached_eq_none_iff.mpr fun d => ?_
    by_cases hd : d = c
    · subst hd; rw [hc]; simp
    · rw [hrest d hd]; exact hport d hd
  have htag : s.tagNone c t f = ((u.attach c p).offer c p, f) := by
    rw [tagNone_taken h hquota, hu, attachWaiting_one (by rw [changesOnly_ccl hkeep (by simp)]; exact hq) hone hafter]
  rw [htag]
  refine ⟨hoffer, fun k => ?_⟩
  have hcount : u.counters = s.counters := by rw [← hu]; rfl
  simp [State.count, attach_offer_counters, hcount]

end tagNone

/-! ### A tag on a CLAIMED entry (R68, R70) -/

section tagClaimed
variable {s : State} {c : ChanNo} {t : Tag} {f : Frame}

theorem tagClaimed_free (h : t.kind = .free) : s.tagClaimed c t f = (s, putTag f c ⟨.claim, s.self⟩) := by
  simp [State.tagClaimed, h]

theorem tagClaimed_passes (h : t.kind = .claim ∨ t.kind = .release) : s.tagClaimed c t f = (s, f) := by
  obtain h | h := h <;> simp [State.tagClaimed, h]

theorem tagClaimed_lost (h : t.kind = .blocked ∨ (t.kind = .grant ∧ ¬ t.node = s.straps)) :
    s.tagClaimed c t f = ((s.modChan c (fun _ => {})).bump .claimsLost, f) := by
  obtain h | ⟨h, hnode⟩ := h
  · simp [State.tagClaimed, h]
  · simp [State.tagClaimed, State.isSelf, State.self, h, hnode]

theorem tagClaimed_won (h : s.grants t) : s.tagClaimed c t f = s.claimWon c f := by
  have hk : t.kind = .grant := h.1
  simp [State.tagClaimed, hk, isSelf_grant_iff.mpr h]

theorem claimWon_wasted (hq : s.ccl.queue = []) :
    s.claimWon c f =
      (((s.bump .claimsWon).modChan c (fun _ => s.releasing)).bump .wastedWins, s.writeRelease c f) := by
  simp only [State.claimWon, State.bump_ccl, hq]
  rfl

theorem claimWon_offered {p : PortNo} (hq : s.ccl.queue.head? = some p) :
    s.claimWon c f =
      ((((s.bump .claimsWon).modChan c (fun _ => { state := .bound })).attach c p).offer c p, f) := by
  obtain ⟨rest, hq⟩ := List.head?_eq_some_iff.mp hq
  simp only [State.claimWon, State.bump_ccl, hq]

theorem claimWon_offersTo {p : PortNo} (hq : s.ccl.queue.head? = some p) (hw : (s.record p).state = .waiting) :
    s.offersTo f (s.claimWon c f) c p ∧ s.counted (s.claimWon c f).1 [.claimsWon] := by
  rw [claimWon_offered hq]
  have hkeep : s.changesOnly ((s.bump .claimsWon).modChan c (fun _ => { state := .bound })) [.cha, .counters] :=
    changesOnly_trans (changesOnly_mono (bump_keeps s _) (by simp)) (changesOnly_mono (modChan_keeps _ c _) (by simp))
  exact ⟨attach_offer_offersTo f hkeep (State.modChan_chan_self _ c _)
      (fun d hd => State.modChan_chan_of_ne (s.bump .claimsWon) c _ hd) hw,
    counted_of_counters_eq (bump_counted s .claimsWon) (attach_offer_counters _ c p)⟩

theorem claimWon_givesBack (hq : s.ccl.queue = []) :
    s.givesBack f (s.claimWon c f) c ∧ s.counted (s.claimWon c f).1 [.claimsWon, .wastedWins] ∧
      s.changesOnly (s.claimWon c f).1 [.cha, .counters] := by
  rw [claimWon_wasted hq]
  exact ⟨⟨State.modChan_chan_self (s.bump .claimsWon) c _, writeRelease_fields s c f⟩,
    counted_snoc (bump_counted s .claimsWon) (by simp) (bump_counted _ .wastedWins),
    changesOnly_trans (changesOnly_mono (bump_keeps s _) (by simp)) (modChan_bump_keeps _ c _ _)⟩

/-- A won claim moves no entry but its own. -/
theorem claimWon_chan_of_ne {d : ChanNo} (h : d ≠ c) : (s.claimWon c f).1.chan d = s.chan d := by
  cases hq : s.ccl.queue with
  | nil => rw [claimWon_wasted hq]; exact State.modChan_chan_of_ne (s.bump .claimsWon) c _ h
  | cons p rest =>
    rw [claimWon_offered (p := p) (by rw [hq]; rfl)]
    simp only [State.chan, changesOnly_cha (offer_keeps _ c p) (by simp)]
    exact (attach_chan_of_ne _ p h).trans (State.modChan_chan_of_ne (s.bump .claimsWon) c _ h)

theorem tagClaimed_chan_of_ne {d : ChanNo} (h : d ≠ c) : (s.tagClaimed c t f).1.chan d = s.chan d := by
  by_cases hlost : t.kind = .blocked ∨ (t.kind = .grant ∧ ¬ t.node = s.straps)
  · rw [tagClaimed_lost hlost]; exact State.modChan_chan_of_ne s c _ h
  · cases hk : t.kind with
    | free => rw [tagClaimed_free hk]
    | claim => rw [tagClaimed_passes (.inl hk)]
    | release => rw [tagClaimed_passes (.inr hk)]
    | blocked => exact absurd (.inl hk) hlost
    | grant =>
      have hnode : t.node = s.straps := by_contra fun hn => hlost (.inr ⟨hk, hn⟩)
      rw [tagClaimed_won ⟨hk, hnode⟩, claimWon_chan_of_ne h]

end tagClaimed

/-! ### A tag on a BOUND entry (R73, R77) -/

section tagBound
variable {s : State} {c : ChanNo} {t : Tag}

theorem tagBound_holding (h : 0 < s.prc.hold) : s.tagBound c t = s := by
  simp [State.tagBound, State.holding, h]

theorem tagBound_grants (h : s.prc.hold = 0) (hg : s.grants t) :
    s.tagBound c t = s.modChan c (fun e => { e with mismatch := 0, withdrawDue := false }) := by
  simp [State.tagBound, State.holding, h, isSelf_grant_iff.mpr hg]

theorem tagBound_mismatch (h : s.prc.hold = 0) (hg : ¬ s.grants t) :
    s.tagBound c t = s.modChan c (fun e => e.mismatched (atLeastOne s.sect.withdrawCount)) := by
  rw [← isSelf_grant_iff] at hg
  simp [State.tagBound, State.holding, h, hg]

/-- Whatever the tag, a BOUND entry's tag moves that entry alone. -/
theorem tagBound_eq_modChan (s : State) (c : ChanNo) (t : Tag) :
    s.tagBound c t = s ∨ ∃ g, s.tagBound c t = s.modChan c g := by
  by_cases h : s.prc.hold = 0
  · by_cases hg : s.grants t
    · exact .inr ⟨_, tagBound_grants h hg⟩
    · exact .inr ⟨_, tagBound_mismatch h hg⟩
  · exact .inl (tagBound_holding (Nat.pos_of_ne_zero h))

theorem tagBound_keeps (s : State) (c : ChanNo) (t : Tag) : s.changesOnly (s.tagBound c t) [.cha] := by
  obtain h | ⟨g, h⟩ := tagBound_eq_modChan s c t
  · rw [h]; exact changesOnly_refl s _
  · rw [h]; exact modChan_keeps s c g

theorem tagBound_chan_of_ne {d : ChanNo} (hd : d ≠ c) : (s.tagBound c t).chan d = s.chan d := by
  obtain h | ⟨g, h⟩ := tagBound_eq_modChan s c t
  · rw [h]
  · rw [h]; exact State.modChan_chan_of_ne s c g hd

end tagBound

/-! ### A tag on a RELEASING entry (R75) -/

section tagReleasing
variable {s : State} {c : ChanNo} {t : Tag} {f : Frame}

theorem tagReleasing_grants (h : s.grants t) : s.tagReleasing c t f = (s, s.writeRelease c f) :=
  if_pos (isSelf_grant_iff.mpr h)

theorem tagReleasing_conflicts (h : s.conflicts t) : s.tagReleasing c t f = (s, f) := by
  rw [State.tagReleasing, if_neg (mt isSelf_grant_iff.mp (not_grants_of_conflicts h)), if_pos (conflicts_iff.mpr h)]

theorem tagReleasing_passes (h : ¬ s.grants t) (h' : ¬ s.conflicts t) :
    s.tagReleasing c t f = (s.modChan c (fun _ => {}), f) := by
  rw [State.tagReleasing, if_neg (mt isSelf_grant_iff.mp h), if_neg (mt conflicts_iff.mp h')]

theorem tagReleasing_chan_of_ne {d : ChanNo} (hd : d ≠ c) : (s.tagReleasing c t f).1.chan d = s.chan d := by
  by_cases hg : s.grants t
  · rw [tagReleasing_grants hg]
  · by_cases hc : s.conflicts t
    · rw [tagReleasing_conflicts hc]
    · rw [tagReleasing_passes hg hc]; exact State.modChan_chan_of_ne s c _ hd

end tagReleasing

/-! ### One arriving tag (R64, R65) -/

section applyTag
variable {s : State} {f0 : Frame} {c : ChanNo} (f : Frame)

theorem applyTag_none (h : (s.chan c).state = .none) :
    applyTag f0 (s, f) c = (s.noteConflict (tagOf f0 c)).tagNone c (tagOf f0 c) f := by
  simp [applyTag, h]

theorem applyTag_claimed (h : (s.chan c).state = .claimed) :
    applyTag f0 (s, f) c = (s.noteConflict (tagOf f0 c)).tagClaimed c (tagOf f0 c) f := by
  simp [applyTag, h]

theorem applyTag_bound (h : (s.chan c).state = .bound) :
    applyTag f0 (s, f) c = ((s.noteConflict (tagOf f0 c)).tagBound c (tagOf f0 c), f) := by
  simp [applyTag, h]

theorem applyTag_releasing (h : (s.chan c).state = .releasing) :
    applyTag f0 (s, f) c = (s.noteConflict (tagOf f0 c)).tagReleasing c (tagOf f0 c) f := by
  simp [applyTag, h]

/-- CLAIM(self) or RELEASE(self) passes on an entry that is not BOUND, which stays (R65, R68, R75). -/
theorem applyTag_conflicts_eq (hc : s.conflicts (tagOf f0 c)) (hst : (s.chan c).state ≠ .bound) :
    applyTag f0 (s, f) c = (s.noteConflict (tagOf f0 c), f) := by
  cases h : (s.chan c).state with
  | none => rw [applyTag_none f h, tagNone_of_not_grants (by simpa using not_grants_of_conflicts hc)]
  | claimed => rw [applyTag_claimed f h, tagClaimed_passes hc.2]
  | bound => exact absurd h hst
  | releasing => rw [applyTag_releasing f h, tagReleasing_conflicts (by simpa using hc)]

/-- Beside the entry, CLAIM(self) and RELEASE(self) do what noting the conflict does (R65). -/
theorem applyTag_conflicts_passes (hc : s.conflicts (tagOf f0 c)) :
    (applyTag f0 (s, f) c).2 = f ∧ (s.noteConflict (tagOf f0 c)).changesOnly (applyTag f0 (s, f) c).1 [.cha] := by
  by_cases hst : (s.chan c).state = .bound
  · rw [applyTag_bound f hst]; exact ⟨rfl, tagBound_keeps _ c _⟩
  · rw [applyTag_conflicts_eq f hc hst]; exact ⟨rfl, changesOnly_refl _ _⟩

theorem applyTag_conflicts_told (hc : s.conflicts (tagOf f0 c)) :
    (applyTag f0 (s, f) c).2 = f ∧ s.counted (applyTag f0 (s, f) c).1 [.numberConflicts] ∧
      s.changesOnly (applyTag f0 (s, f) c).1 [.cha, .sgu, .counters] ∧
      s.conflictTold (applyTag f0 (s, f) c).1 := by
  obtain ⟨hframe, hkeep⟩ := applyTag_conflicts_passes f hc
  refine ⟨hframe, counted_of_counters_eq (noteConflict_counted hc) (changesOnly_counters hkeep (by simp)),
    changesOnly_trans (changesOnly_mono (noteConflict_keeps s _) (by simp)) (changesOnly_mono hkeep (by simp)), ?_⟩
  simpa only [State.conflictTold, State.listedAfresh, changesOnly_sgu hkeep (by simp)] using noteConflict_told hc

/-- Only on a NONE entry can a tag move another channel's entry: one unattached before is attached first (R72). -/
theorem applyTag_chan_of_ne {d : ChanNo} (hd : d ≠ c) (hst : (s.chan c).state ≠ .none) :
    (applyTag f0 (s, f) c).1.chan d = s.chan d := by
  cases h : (s.chan c).state with
  | none => exact absurd h hst
  | claimed => rw [applyTag_claimed f h, tagClaimed_chan_of_ne hd, noteConflict_chan]
  | bound => rw [applyTag_bound f h, tagBound_chan_of_ne hd, noteConflict_chan]
  | releasing => rw [applyTag_releasing f h, tagReleasing_chan_of_ne hd, noteConflict_chan]

end applyTag

/-! ### The exchange of voice (R76, R112, R115) -/

section exchangeVoice
variable {s : State} {f0 f : Frame} {c : ChanNo}

theorem exchangeVoice_attached {p : PortNo} (hst : (s.chan c).state = .bound) (hport : (s.chan c).port = some p)
    (hg : s.grants (tagOf f0 c)) :
    exchangeVoice f0 (s, f) c = (s.receiveDownlink c p (voiceOf f0 c), putVoice f c s.vcn.uplink[p]) := by
  simp [exchangeVoice, hst, hport, isSelf_grant_iff.mpr hg]

theorem exchangeVoice_else (h : (s.chan c).state ≠ .bound ∨ (s.chan c).port = none ∨ ¬ s.grants (tagOf f0 c)) :
    exchangeVoice f0 (s, f) c = (s, f) := by
  unfold exchangeVoice
  simp only []
  split
  · next p hst hport =>
    have hg : ¬ s.grants (tagOf f0 c) := by simpa [hst, hport] using h
    exact if_neg (mt isSelf_grant_iff.mp hg)
  · rfl

end exchangeVoice

/-! ### The claim decision (R67) -/

/-- In ascending order the least element with a property is the one that a search finds. -/
theorem find?_eq_some_of_least {q : ChanNo → Bool} {l : List ChanNo} {c : ChanNo} (hl : l.Pairwise (· < ·))
    (hc : c ∈ l) (hq : q c = true) (h : ∀ d, d < c → q d = false) : l.find? q = some c := by
  induction l with
  | nil => cases hc
  | cons d l ih =>
    obtain ⟨hd, hl⟩ := List.pairwise_cons.mp hl
    obtain rfl | hc := List.mem_cons.mp hc
    · simp [hq]
    · simp [h d (hd c hc), ih hl hc]

/-- Channel `c` arrived FREE on an entry NONE in `s`, before the tags, and in `u`, after them. -/
def State.mayTake (s u : State) (f : Frame) (c : ChanNo) : Prop :=
  (tagOf f c).kind = .free ∧ (s.chan c).state = .none ∧ (u.chan c).state = .none

theorem claimable_eq (s u : State) (f : Frame) :
    u.claimable (s.freeChannels f) = allChans.find? (fun c =>
      (decide ((tagOf f c).kind = .free) && decide ((s.chan c).state = .none)) && decide ((u.chan c).state = .none)) := by
  simp only [State.claimable, State.freeChannels, List.find?_filter, ← Bool.decide_and, decide_eq_true_eq]

theorem claimable_some {s u : State} {f : Frame} {c : ChanNo} (hc : s.mayTake u f c)
    (h : ∀ d, d < c → ¬ s.mayTake u f d) : u.claimable (s.freeChannels f) = some c := by
  obtain ⟨hfree, hbefore, hnow⟩ := hc
  rw [claimable_eq]
  refine find?_eq_some_of_least (by decide) (mem_allChans c) (by simp [hfree, hbefore, hnow]) fun d hd => ?_
  have hno := h d hd
  simp only [State.mayTake, ← and_assoc] at hno
  simpa only [← Bool.decide_and, decide_eq_false_iff_not] using hno

theorem claimable_none {s u : State} {f : Frame} (h : ∀ c, ¬ s.mayTake u f c) :
    u.claimable (s.freeChannels f) = none := by
  rw [claimable_eq, List.find?_eq_none]
  intro d _
  have hno := h d
  simp only [State.mayTake, ← and_assoc] at hno
  simpa only [← Bool.decide_and, decide_eq_true_eq] using hno

/-- The conditions of a claim other than a free channel (R67). -/
theorem mayClaim_iff {s : State} :
    s.mayClaim = true ↔
      s.ccl.queue ≠ [] ∧ (∀ c, (s.chan c).state ≠ .claimed) ∧ s.unattached = none ∧
        s.heldChannels < min s.sect.quota 8 ∧ s.cha.holdoff = 0 ∧ s.prc.hold = 0 := by
  simp [State.mayClaim, State.holding, Sect.quotaUsed, mem_allChans, and_assoc]

section claimStep
variable {x : State × Frame} {free : List ChanNo}

theorem claimStep_claims {c : ChanNo} (hc : x.1.claimable free = some c) (hmay : x.1.mayClaim = true) :
    claimStep free x =
      (x.1.modChan c (fun _ => { state := .claimed, timer := atLeastOne x.1.sect.claimTimeout }),
        putTag x.2 c ⟨.claim, x.1.straps⟩) := by
  simp only [claimStep, hc, hmay, if_true]
  rfl

theorem claimStep_of_none (h : x.1.claimable free = none) : claimStep free x = x := by
  simp only [claimStep, h]

theorem claimStep_of_not_mayClaim (h : x.1.mayClaim ≠ true) : claimStep free x = x := by
  cases hc : x.1.claimable free <;> simp only [claimStep, hc, if_neg h]

end claimStep

end Sys2Proof.Machine
end

section
/-! PROOFS. An arriving tag on each state of its entry (R65, R68, R70 to R73, R75), the voice of an attached channel (R76)
and the claim at a frame's end (R67), as the obligation on the Channel Agent states them. -/

namespace Sys2Proof.Machine

section clauses
variable {s : State} {f0 : Frame} {c : ChanNo} (f : Frame)

/-- The tag is not noted as a conflict, so it acts on the state as it stands. -/
theorem noteConflict_of_kind {t : Tag} (h : t.kind ≠ .claim) (h' : t.kind ≠ .release) : s.noteConflict t = s :=
  noteConflict_of_not_conflicts (not_conflicts_of_kind h h')

theorem noteConflict_of_grants {t : Tag} (h : s.grants t) : s.noteConflict t = s :=
  noteConflict_of_not_conflicts fun hc => not_grants_of_conflicts hc h

/-- The table of R75. -/
theorem applyTag_on_releasing (hst : (s.chan c).state = .releasing) :
    (s.grants (tagOf f0 c) → applyTag f0 (s, f) c = (s, s.writeRelease c f)) ∧
    (s.conflicts (tagOf f0 c) → applyTag f0 (s, f) c = (s.noteConflict (tagOf f0 c), f)) ∧
    (¬ s.grants (tagOf f0 c) → ¬ s.conflicts (tagOf f0 c) →
      applyTag f0 (s, f) c = (s.modChan c (fun _ => {}), f)) := by
  refine ⟨fun hg => ?_, fun hc => applyTag_conflicts_eq f hc (by simp [hst]), fun hg hc => ?_⟩
  · rw [applyTag_releasing f hst, noteConflict_of_grants hg, tagReleasing_grants hg]
  · rw [applyTag_releasing f hst, noteConflict_of_not_conflicts hc, tagReleasing_passes hg hc]

/-- The rules of R73 and R77: the check of a BOUND entry, suspended in the hold. -/
theorem applyTag_on_bound (hst : (s.chan c).state = .bound) :
    (applyTag f0 (s, f) c).2 = f ∧
    (0 < s.prc.hold → (applyTag f0 (s, f) c).1.chan c = s.chan c) ∧
    (s.prc.hold = 0 → s.grants (tagOf f0 c) →
      (applyTag f0 (s, f) c).1.chan c = { s.chan c with mismatch := 0, withdrawDue := false }) ∧
    (s.prc.hold = 0 → ¬ s.grants (tagOf f0 c) →
      (applyTag f0 (s, f) c).1.chan c = (s.chan c).mismatched (atLeastOne s.sect.withdrawCount)) := by
  rw [applyTag_bound f hst]
  refine ⟨rfl, fun hold => ?_, fun hold hg => ?_, fun hold hg => ?_⟩
  · rw [tagBound_holding (by simpa using hold), noteConflict_chan]
  · rw [tagBound_grants (by simpa using hold) (by simpa using hg)]
    simp
  · rw [tagBound_mismatch (by simpa using hold) (by simpa using hg)]
    simp

/-- The table of R68, but for a claim won. -/
theorem applyTag_on_claimed (hst : (s.chan c).state = .claimed) :
    ((tagOf f0 c).kind = .free → applyTag f0 (s, f) c = (s, putTag f c ⟨.claim, s.straps⟩)) ∧
    ((tagOf f0 c).kind = .claim ∨ (tagOf f0 c).kind = .release →
      applyTag f0 (s, f) c = (s.noteConflict (tagOf f0 c), f)) ∧
    ((tagOf f0 c).kind = .blocked ∨ ((tagOf f0 c).kind = .grant ∧ ¬ (tagOf f0 c).node = s.straps) →
      applyTag f0 (s, f) c = ((s.modChan c (fun _ => {})).bump .claimsLost, f)) ∧
    (s.grants (tagOf f0 c) → applyTag f0 (s, f) c = s.claimWon c f) := by
  rw [applyTag_claimed f hst]
  refine ⟨fun hk => ?_, fun hk => tagClaimed_passes hk, fun hk => ?_, fun hg => ?_⟩
  · rw [noteConflict_of_kind (by simp [hk]) (by simp [hk]), tagClaimed_free hk]
    rfl
  · obtain ⟨hclaim, hrelease⟩ : (tagOf f0 c).kind ≠ .claim ∧ (tagOf f0 c).kind ≠ .release := by
      obtain hk | ⟨hk, -⟩ := hk <;> simp [hk]
    rw [noteConflict_of_kind hclaim hrelease, tagClaimed_lost hk]
  · rw [noteConflict_of_grants hg, tagClaimed_won hg]

/-- The table of R71. -/
theorem applyTag_on_none (hst : (s.chan c).state = .none) :
    (s.conflicts (tagOf f0 c) → applyTag f0 (s, f) c = (s.noteConflict (tagOf f0 c), f)) ∧
    (¬ s.grants (tagOf f0 c) → ¬ s.conflicts (tagOf f0 c) → applyTag f0 (s, f) c = (s, f)) ∧
    (s.grants (tagOf f0 c) → applyTag f0 (s, f) c = s.tagNone c (tagOf f0 c) f) := by
  refine ⟨fun hc => applyTag_conflicts_eq f hc (by simp [hst]), fun hg hc => ?_, fun hg => ?_⟩
  · rw [applyTag_none f hst, noteConflict_of_not_conflicts hc, tagNone_of_not_grants hg]
  · rw [applyTag_none f hst, noteConflict_of_grants hg]

end clauses

/-- An assignment refused at the quota is given back (R71). -/
theorem tagNone_givesBack {s : State} {c : ChanNo} {t : Tag} (f : Frame) (h : s.grants t)
    (hquota : min s.sect.quota 8 ≤ s.heldChannels) :
    s.givesBack f (s.tagNone c t f) c ∧ s.counted (s.tagNone c t f).1 [.assignmentsRefused] ∧
      s.changesOnly (s.tagNone c t f).1 [.cha, .counters] := by
  obtain ⟨hchan, -, -, hcount, hkeep⟩ := modChan_bump_entryBecomes s c s.releasing .assignmentsRefused
  rw [tagNone_refused h hquota]
  exact ⟨⟨hchan, writeRelease_fields s c f⟩, hcount, hkeep⟩

/-- The voice of an attached channel is exchanged, and no other voice moves (R76, R115). -/
theorem exchangeVoice_exchanges {s : State} {f0 : Frame} {c : ChanNo} {p : PortNo} (f : Frame)
    (hst : (s.chan c).state = .bound) (hport : (s.chan c).port = some p) (hg : s.grants (tagOf f0 c)) :
    let r := exchangeVoice f0 (s, f) c
    r.2 = putVoice f c s.vcn.uplink[p] ∧ (sampleOk s.vcn.uplink[p] → voiceOf r.2 c = s.vcn.uplink[p]) ∧
      r.1.voice c = { s.voice c with
        lastDown := downlinkGain (s.post p).gainDown (voiceOf f0 c), missing := 0, received := true } ∧
      (∀ d, d ≠ c → r.1.voice d = s.voice d ∧ voiceOf r.2 d = voiceOf f d) ∧ s.changesOnly r.1 [.vcn] := by
  obtain ⟨hself, hothers, -, hkeep⟩ := modVoice_voiceBecomes s c (fun v =>
    { v with lastDown := downlinkGain (s.post p).gainDown (voiceOf f0 c), missing := 0, received := true })
  rw [exchangeVoice_attached hst hport hg]
  exact ⟨rfl, fun hok => voiceOf_putVoice_self f c hok, hself,
    fun d hd => ⟨hothers d hd, voiceOf_putVoice_of_ne f _ hd⟩, hkeep⟩

/-- The lowest channel that may be taken is claimed, in the map and in the frame (R67). -/
theorem chaFrame_claims {s : State} {f : Frame} {c : ChanNo} {x : State × Frame}
    (hx : allChans.foldl (exchangeVoice f) (allChans.foldl (applyTag f) (s, f)) = x) (hmay : x.1.mayClaim = true)
    (hc : s.mayTake x.1 f c) (hleast : ∀ d, d < c → ¬ s.mayTake x.1 f d) :
    let r := s.chaFrame f
    r.1.chan c = { state := .claimed, timer := atLeastOne x.1.sect.claimTimeout } ∧
      tagOf r.2 c = ⟨.claim, x.1.straps⟩ ∧ (∀ d, d ≠ c → r.1.chan d = x.1.chan d ∧ tagOf r.2 d = tagOf x.2 d) ∧
      (∀ d, voiceOf r.2 d = voiceOf x.2 d) ∧ r.1.cha.holdoff = x.1.cha.holdoff ∧ x.1.changesOnly r.1 [.cha] := by
  rw [State.chaFrame, hx, claimStep_claims (claimable_some hc hleast) hmay]
  exact ⟨State.modChan_chan_self _ c _, tagOf_putTag_self _ c _,
    fun d hd => ⟨State.modChan_chan_of_ne _ c _ hd, tagOf_putTag_of_ne _ _ hd⟩, fun d => voiceOf_putTag _ c _ d,
    rfl, modChan_keeps _ c _⟩

/-- Settles O40: the tags by the state of their entry, the exchange of voice, and the claim at the frame's end. -/
theorem tagsActOnTheirEntry : Obligations.TagsActOnTheirEntry := by
  refine ⟨fun s f0 f c => ⟨fun hc => applyTag_conflicts_told f hc, fun d hd => ?_, fun hst => ?_, fun hst => ?_,
    fun hst => ?_, fun hst => ?_⟩, fun s f0 f c => ⟨fun p hst hport hg => exchangeVoice_exchanges f hst hport hg,
    fun h => exchangeVoice_else h⟩, fun s f => ?_⟩
  · by_cases hst : (s.chan c).state = .none
    · exact .inr hst
    · exact .inl (applyTag_chan_of_ne f hd hst)
  · obtain ⟨hgrant, hconflict, hpass⟩ := applyTag_on_releasing (f0 := f0) f hst
    refine ⟨fun hk hm => ?_, fun hc => ?_, fun hg hc => ?_⟩
    · simp only [hgrant ⟨hk, hm⟩]
      exact ⟨trivial, writeRelease_fields s c f⟩
    · simp only [hconflict hc]
      exact ⟨noteConflict_chan s _ c, trivial⟩
    · simp only [hpass hg hc]
      exact ⟨State.modChan_chan_self s c _, trivial, modChan_keeps s c _⟩
  · obtain ⟨hframe, hhold, hgrant, hmiss⟩ := applyTag_on_bound (f0 := f0) f hst
    refine ⟨hframe, hhold, fun hold hk hm => hgrant hold ⟨hk, hm⟩, fun hold hg => ?_⟩
    rw [hmiss hold hg]
    exact ⟨hst, rfl, rfl, rfl⟩
  · obtain ⟨hfree, hpass, hlost, hwon⟩ := applyTag_on_claimed (f0 := f0) f hst
    refine ⟨fun hk => ?_, fun hk => ?_, fun hk => ?_, fun hk hm => ?_⟩
    · simp only [hfree hk]
      exact ⟨trivial, tagOf_putTag_self f c _, voiceOf_putTag f c _ c⟩
    · simp only [hpass hk]
      exact ⟨noteConflict_chan s _ c, trivial⟩
    · obtain ⟨hself, -, -, hcount, hkeep⟩ := modChan_bump_entryBecomes s c {} .claimsLost
      simp only [hlost hk]
      exact ⟨hself, trivial, hcount, hkeep⟩
    · simp only [hwon ⟨hk, hm⟩]
      exact ⟨fun hq => claimWon_givesBack hq, fun p hq hw => claimWon_offersTo hq hw⟩
  · obtain ⟨hconflict, hpass, hgrant⟩ := applyTag_on_none (f0 := f0) f hst
    refine ⟨hpass, fun hc => ?_, fun hk hm => ?_⟩
    · simp only [hconflict hc]
      exact ⟨noteConflict_cha s _, trivial⟩
    · have hg : s.grants (tagOf f0 c) := ⟨hk, hm⟩
      simp only [hgrant hg]
      refine ⟨fun hquota => tagNone_givesBack f hg hquota, fun hquota => ⟨fun hq => ?_, fun p hq hw hun =>
        tagNone_attached hg hquota hq hw hun⟩⟩
      rw [tagNone_unattached hg hquota hq]
      exact ⟨State.modChan_chan_self s c _, rfl, modChan_keeps s c _,
        fun d hd => State.modChan_chan_of_ne s c _ hd⟩
  · generalize hx : allChans.foldl (exchangeVoice f) (allChans.foldl (applyTag f) (s, f)) = x
    refine ⟨fun c hmay hc hleast => chaFrame_claims hx (mayClaim_iff.mpr hmay) hc hleast, fun hno => ?_⟩
    rw [State.chaFrame, hx]
    obtain hmay | hnone := hno
    · exact claimStep_of_not_mayClaim (mt mayClaim_iff.mp hmay)
    · exact claimStep_of_none (claimable_none hnone)

end Sys2Proof.Machine
end
